-- ==== Sys2Proof/Word.lean ====
section
/-! DEFINITION. The bit-vector types of the core (spec 00_scope.md R11: a byte is 8 bits and a word is 32 bits). -/

namespace Sys2Proof

/-- A byte, 8 bits (R11). -/
abbrev Byte := BitVec 8

/-- A 16-bit register value: `CUR_BUTTONS` and `IDENT` (R31, R32). -/
abbrev Half := BitVec 16

/-- A queue word or a command word, 32 bits (R11, R52). -/
abbrev Word := BitVec 32

end Sys2Proof
end

