-- ==== Sys2Proof/Syntax.lean ====
section
/-! DEFINITION. The instructions of the core: the four host operations (spec 30_encoding.md R71) and the nine responder decode rows (R82), one constructor per row of opcode_table.json. -/

namespace Sys2Proof

/-- The operations of the core. A host operation carries the operands of R73; a responder row carries the
bits of the decode key that its pattern leaves free (R82). -/
inductive Instr where
  /-- TRANSACT: the payload `OUT`, whose length is `n_out`, and `n_in` (R73, R101). -/
  | transact (out : List Byte) (nIn : Byte)
  /-- PUBLISH: the 16-bit value (R73, R170). -/
  | publish (value : Half)
  /-- IRQ_DISABLE (R171). -/
  | irqDisable
  /-- IRQ_ENABLE (R172). -/
  | irqEnable
  /-- RSP_S0_ACCEPT: key `000 00000001` (R142). -/
  | rspS0Accept
  /-- RSP_S0_REJECT: key `000 bbbbbbbb`, `b ≠ 0x01` (R143). -/
  | rspS0Reject (b : Byte)
  /-- RSP_S1_ACCEPT: key `001 01000010` (R144). -/
  | rspS1Accept
  /-- RSP_S1_REJECT: key `001 bbbbbbbb`, `b ≠ 0x42` (R145). -/
  | rspS1Reject (b : Byte)
  /-- RSP_S2: key `010 bbbbbbbb` (R146). -/
  | rspS2 (b : Byte)
  /-- RSP_S3: key `011 bbbbbbbb` (R147). -/
  | rspS3 (b : Byte)
  /-- RSP_S4: key `100 bbbbbbbb` (R148). -/
  | rspS4 (b : Byte)
  /-- RSP_ILLEGAL_STEP5: key `101 bbbbbbbb` (R149). -/
  | rspIllegalStep5 (b : Byte)
  /-- RSP_ILLEGAL_STEP67: key `11s bbbbbbbb`; `lowBit` is `s`, so `STEP` is 6 or 7 (R149). -/
  | rspIllegalStep67 (lowBit : BitVec 1) (b : Byte)
  deriving DecidableEq, Repr

end Sys2Proof
end

