-- ==== Sys2Proof/WellFormed.lean ====
section
/-! DEFINITION. When an instruction is well formed: its operands fit their fields, and a responder row does not take a key that an earlier row takes (spec 30_encoding.md R73, R82). -/

namespace Sys2Proof

/-- The checks: TRANSACT's payload length fits the 8-bit NOUT field (R70, R73); the reject rows leave
the accepted byte to the row before them (R82: "row 2 takes `b ≠ 0x01` and row 4 takes `b ≠ 0x42`"). -/
def Instr.wf : Instr → Bool
  | .transact out _ => decide (out.length < 256)
  | .publish _ => true
  | .irqDisable => true
  | .irqEnable => true
  | .rspS0Accept => true
  | .rspS0Reject b => b != 0x01#8
  | .rspS1Accept => true
  | .rspS1Reject b => b != 0x42#8
  | .rspS2 _ => true
  | .rspS3 _ => true
  | .rspS4 _ => true
  | .rspIllegalStep5 _ => true
  | .rspIllegalStep67 _ _ => true

/-- The host operations, which PROC issues (R71, R176); the others are the HANDLER's rows (R82). -/
def Instr.isHostOp : Instr → Bool
  | .transact _ _ => true
  | .publish _ => true
  | .irqDisable => true
  | .irqEnable => true
  | .rspS0Accept => false
  | .rspS0Reject _ => false
  | .rspS1Accept => false
  | .rspS1Reject _ => false
  | .rspS2 _ => false
  | .rspS3 _ => false
  | .rspS4 _ => false
  | .rspIllegalStep5 _ => false
  | .rspIllegalStep67 _ _ => false

end Sys2Proof
end

