-- ==== Sys2Proof/Decode.lean ====
section
/-! DEFINITION. The decoder of command words and of responder keys, total and rejecting by name, and the encoder (spec 30_encoding.md R70 to R73, R81, R82). -/

namespace Sys2Proof

/-- What a decoder reads: a command word with its payload (R70), or a responder key (R81). -/
inductive Encoded where
  | command (word : Word) (payload : List Byte)
  | key (k : BitVec 11)
  deriving DecidableEq, Repr

/-- Why a decoder rejects. -/
inductive DecodeError where
  /-- The command word matches no row of R71 (R72, R173). -/
  | reserved
  /-- The payload's length is not the operation's (R73); the command port never presents this (log 4). -/
  | payloadLength
  /-- The key matches no row of R82; no key does (the table is total). -/
  | noRow
  deriving DecidableEq, Repr

/-- `NOUT`, bits [15:8] of a command word (R70). -/
def fieldNOut (w : Word) : Byte := w.extractLsb' 8 8

/-- `NIN`, bits [7:0] of a command word (R70). -/
def fieldNIn (w : Word) : Byte := w.extractLsb' 0 8

/-- `VALUE`, bits [15:0] of a command word (R70). -/
def fieldValue (w : Word) : Half := w.extractLsb' 0 16

/-- An operation that carries no payload (R70). -/
def withoutPayload (payload : List Byte) (i : Instr) : Except DecodeError Instr :=
  if payload = [] then .ok i else .error .payloadLength

/-- The command decoder: the first row of R71 whose `(C & mask) = match` (R72), operands by R73. -/
def decodeCommand (w : Word) (payload : List Byte) : Except DecodeError Instr :=
  if w &&& 0xFFFF0000#32 = 0x10000000#32 then
    if payload.length = (fieldNOut w).toNat then .ok (.transact payload (fieldNIn w))
    else .error .payloadLength
  else if w &&& 0xFFFF0000#32 = 0x20000000#32 then withoutPayload payload (.publish (fieldValue w))
  else if w &&& 0xFFFFFFFF#32 = 0x30000000#32 then withoutPayload payload .irqDisable
  else if w &&& 0xFFFFFFFF#32 = 0x40000000#32 then withoutPayload payload .irqEnable
  else .error .reserved

/-- The received byte, bits [7:0] of a key (R81). -/
def keyByte (k : BitVec 11) : Byte := k.extractLsb' 0 8

/-- The responder decoder: the first row of R82 whose `(K & mask) = match`. -/
def decodeKey (k : BitVec 11) : Except DecodeError Instr :=
  if k &&& 0x7FF#11 = 0x001#11 then .ok .rspS0Accept
  else if k &&& 0x700#11 = 0x000#11 then .ok (.rspS0Reject (keyByte k))
  else if k &&& 0x7FF#11 = 0x142#11 then .ok .rspS1Accept
  else if k &&& 0x700#11 = 0x100#11 then .ok (.rspS1Reject (keyByte k))
  else if k &&& 0x700#11 = 0x200#11 then .ok (.rspS2 (keyByte k))
  else if k &&& 0x700#11 = 0x300#11 then .ok (.rspS3 (keyByte k))
  else if k &&& 0x700#11 = 0x400#11 then .ok (.rspS4 (keyByte k))
  else if k &&& 0x700#11 = 0x500#11 then .ok (.rspIllegalStep5 (keyByte k))
  else if k &&& 0x600#11 = 0x600#11 then .ok (.rspIllegalStep67 (k.extractLsb' 8 1) (keyByte k))
  else .error .noRow

/-- The decoder, total on both kinds of encoding. -/
def decode : Encoded → Except DecodeError Instr
  | .command w payload => decodeCommand w payload
  | .key k => decodeKey k

/-- The encoder, from the patterns of R71 and R82 read bit 31 (bit 10) first. -/
def encode : Instr → Encoded
  | .transact out nIn => .command (0x1#4 ++ 0x000#12 ++ BitVec.ofNat 8 out.length ++ nIn) out
  | .publish v => .command (0x2#4 ++ 0x000#12 ++ v) []
  | .irqDisable => .command (0x3#4 ++ 0x0000000#28) []
  | .irqEnable => .command (0x4#4 ++ 0x0000000#28) []
  | .rspS0Accept => .key (0b000#3 ++ 0b00000001#8)
  | .rspS0Reject b => .key (0b000#3 ++ b)
  | .rspS1Accept => .key (0b001#3 ++ 0b01000010#8)
  | .rspS1Reject b => .key (0b001#3 ++ b)
  | .rspS2 b => .key (0b010#3 ++ b)
  | .rspS3 b => .key (0b011#3 ++ b)
  | .rspS4 b => .key (0b100#3 ++ b)
  | .rspIllegalStep5 b => .key (0b101#3 ++ b)
  | .rspIllegalStep67 s b => .key (0b11#2 ++ s ++ b)

/-- Byte `i` of a payload that follows a 32-bit command word in one number (opcode_table.json's
numbering: bit 0 is the command word's, the payload counts on from bit 32). -/
def tablePayloadByte (w i : Nat) : Byte := BitVec.ofNat 8 (w >>> (32 + 8 * i))

/-- The encoding that opcode_table.json's number `w` of `nbits` bits stands for: an 11-bit responder key
(two whole bytes, the bits above bit 10 zero), or a command word and, for the TRANSACT pattern only, the
`NOUT` payload bytes above it (log 22). -/
def tableEncoded (nbits w : Nat) : Option Encoded :=
  if nbits ≤ 16 then
    if w < 2 ^ 11 then some (.key (BitVec.ofNat 11 w)) else none
  else
    let c : Word := BitVec.ofNat 32 w
    let payload :=
      if c &&& 0xFFFF0000#32 = 0x10000000#32 then
        (List.range (fieldNOut c).toNat).map (tablePayloadByte w)
      else []
    some (.command c payload)

/-- The instruction the decoder reads from an opcode-table number, `none` where it rejects. -/
def decodeTableWord (nbits w : Nat) : Option Instr :=
  match tableEncoded nbits w with
  | none => none
  | some e =>
    match decode e with
    | .ok i => some i
    | .error _ => none

end Sys2Proof
end

