-- ==== Sys2Proof/Machine/Move.lean ====
section
/-! DEFINITION. The moves of the agents: what one step of the total order can be (spec 00_scope.md R5, 30_encoding.md R85). -/

namespace Sys2Proof.Machine

/-- One step of one agent, in the trace forms of R85. -/
inductive Move where
  /-- PROC presents a command word with its payload bytes (`cmd`, R70). -/
  | cmd (word : Word) (payload : List Byte)
  /-- HANDLER: one interrupt step (`irq`, R141). -/
  | irq
  /-- ENGA pushes an RX word (`ev RXA`, R110). -/
  | rxa (word : Word)
  /-- ENGA takes one TX word (`ev TAKEA`, R204). -/
  | takeA
  /-- TIMEBASE: one tick (`ev TICK`, R107, R108, R109). -/
  | tick
  /-- ENGB delivers a received byte (`ev BYTEB`, R151). -/
  | byteB (b : Byte)
  /-- ENGB takes one reply word (`ev TAKEB`, R204). -/
  | takeB
  deriving DecidableEq, Repr, Inhabited

end Sys2Proof.Machine
end

