-- ==== Sys2Proof/Config.lean ====
section
/-! DEFINITION. The implementation parameters of spec 00_scope.md R7: the fixed and decided values, the OPEN ones as free constants, and the free choice of the next move. -/

namespace Sys2Proof.Config

/-- `BITS_PER_BYTE` (R7). -/
def bitsPerByte : Nat := 8

/-- `BIT_PERIOD`, in ticks (R7). -/
def bitPeriod : Nat := 4

/-- `SETTLE_MULT`, ticks per outgoing bit (R7). -/
def settleMult : Nat := 4

/-- `TIMEOUT_MULT` (R7). -/
def timeoutMult : Nat := 2

/-- `TIMEOUT_TICKS`, the product of R9: 64 ticks. -/
def timeoutTicks : Nat := bitsPerByte * bitPeriod * timeoutMult

/-- `IDENT`, the fixed identity code (R8). -/
def ident : Half := 0x5A41#16

/-- `IDLE_BUTTONS`, no button pressed (R7, decision D22; log 20). -/
def idleButtons : Half := 0xFFFF#16

/-- `CNT_W`, the width of the tick counters (R7, R25, R26). -/
def cntW : Nat := 32

/-- The parameters R7 marks OPEN: the model takes them as an argument (log 6). `HTE_CHAN` is a state
element of its own (R29). -/
structure Params where
  /-- `SETTLE_GUARD`, in ticks. -/
  settleGuard : Nat
  /-- `T_UNIT`, the length of a tick in a unit the spec does not name; no rule uses it (log 19). -/
  tUnit : Nat
  /-- `MAX_OUT`, the most outgoing bytes of one TRANSACT. -/
  maxOut : Nat
  /-- `MAX_IN`, the most incoming bytes of one TRANSACT. -/
  maxIn : Nat
  /-- `TXQA_DEPTH`. -/
  txqaDepth : Nat
  /-- `RXQA_DEPTH`. -/
  rxqaDepth : Nat
  /-- `TXQB_DEPTH`. -/
  txqbDepth : Nat
  deriving DecidableEq, Repr, Inhabited

/-- The constraint column of R7. The last conjunct is R7's `CNT_W` row and R12: no settle wait reaches
2^32 (log 7). -/
abbrev Params.wf (p : Params) : Prop :=
  1 ≤ p.tUnit ∧ 1 ≤ p.maxOut ∧ p.maxOut ≤ min 255 (p.txqaDepth - 1) ∧ 1 ≤ p.maxIn ∧ p.maxIn ≤ 255 ∧
    2 ≤ p.txqaDepth ∧ 1 ≤ p.rxqaDepth ∧ 2 ≤ p.txqbDepth ∧
    settleMult * (bitsPerByte * p.maxOut) + p.settleGuard < 2 ^ cntW

/-- Free: fixes `SETTLE_GUARD` (R7 OPEN). -/
opaque freeSettleGuard : Nat
/-- Free: fixes `T_UNIT` (R7 OPEN). -/
opaque freeTUnit : Nat
/-- Free: fixes `MAX_OUT` (R7 OPEN). -/
opaque freeMaxOut : Nat
/-- Free: fixes `MAX_IN` (R7 OPEN). -/
opaque freeMaxIn : Nat
/-- Free: fixes `TXQA_DEPTH` (R7 OPEN). -/
opaque freeTxqaDepth : Nat
/-- Free: fixes `RXQA_DEPTH` (R7 OPEN). -/
opaque freeRxqaDepth : Nat
/-- Free: fixes `TXQB_DEPTH` (R7 OPEN). -/
opaque freeTxqbDepth : Nat
/-- Free: the value of `HTE_CHAN`, an opaque identifier (R29). -/
opaque hteChan : Nat

/-- Free: which agent moves, and with which data, once the schedule in State is used up (R198, R204,
R208; log 2). The argument counts the moves taken so far. -/
opaque freeMove : Nat → Machine.Move

/-- The chip's parameters: free, within R7's constraints, and every admissible choice is reached by some
choice of the free constants (log 6). -/
def params : Params :=
  let txqaDepth := freeTxqaDepth + 2
  let maxOut := freeMaxOut % min 255 (txqaDepth - 1) + 1
  { settleGuard := freeSettleGuard % (2 ^ cntW - settleMult * (bitsPerByte * maxOut))
    tUnit := freeTUnit + 1
    maxOut := maxOut
    maxIn := freeMaxIn % 255 + 1
    txqaDepth := txqaDepth
    rxqaDepth := freeRxqaDepth + 1
    txqbDepth := freeTxqbDepth + 2 }

/-- `SETTLE_TICKS(n_out)`, the settle wait in ticks (R10). -/
def settleTicks (p : Params) (nOut : Nat) : Nat := settleMult * (bitsPerByte * nOut) + p.settleGuard

end Sys2Proof.Config
end

