-- ==== Sys2Proof/Machine/State.lean ====
section
/-! DEFINITION. The state of the core (spec 10_state.md), the reasons a step can stop, and the state after reset (70_reset_and_hazards.md R220). -/

namespace Sys2Proof.Machine

/-- `HTE_PHASE`, a 2-bit field (R22). -/
inductive Phase where
  /-- IDLE = 0: no transaction. -/
  | idle
  /-- SETTLE = 1: engine A enabled, settle wait running. -/
  | settle
  /-- RECV = 2: waiting for incoming byte `HTE_IDX`. -/
  | recv
  /-- 3: never written; a state not reachable from reset (R22, R120 (e)). -/
  | three
  deriving DecidableEq, Repr

/-- `RSP_STATUS`, a 2-bit field (R28, R74). -/
inductive Status where
  /-- OK = 0. -/
  | ok
  /-- TIMEOUT = 1. -/
  | timeout
  /-- BAD_REQUEST = 2. -/
  | badRequest
  /-- NONE = 3. -/
  | none
  deriving DecidableEq, Repr

/-- The fault codes of R194, which `FAULTS` collects. -/
inductive FaultCode where
  /-- `F_RESERVED_OP` = 1 (R72, R173). -/
  | reservedOp
  /-- `F_UNGUARDED_PUBLISH` = 2 (R170). -/
  | unguardedPublish
  /-- `F_HTE_BUSY` = 3 (R175). -/
  | hteBusy
  /-- `F_TXQB_FULL` = 4 (R154). -/
  | txqbFull
  /-- `F_INTERNAL` = 5 (R22, R101). -/
  | internal
  deriving DecidableEq, Repr

/-- A byte array of the core (`HTE_BUF`, `RSP_DATA`) as (index, byte) pairs in the canonical form of
Machine/Memory.lean. -/
abbrev Memory := List Host.Cell

/-- Everything the spec gives the machine (10_state.md), and the model's own `params`, `sched` and
`freeCtr`. `IDENT` is hard-wired and is read through `State.ident`. Counters are natural numbers by R12;
their widths are the invariant `WidthsHold` of Safety.lean. -/
structure State where
  /-- `HTE_PHASE`, 2 bits (R22). -/
  htePhase : Phase
  /-- `HTE_NOUT`, 8 bits (R23). -/
  hteNOut : Nat
  /-- `HTE_NIN`, 8 bits (R23). -/
  hteNIn : Nat
  /-- `HTE_IDX`, 8 bits (R24). -/
  hteIdx : Nat
  /-- `HTE_TCNT`, 32 bits (R25). -/
  hteTcnt : Nat
  /-- `HTE_SETTLE`, 32 bits (R26). -/
  hteSettle : Nat
  /-- `HTE_BUF`, bytes (R27). -/
  hteBuf : Memory
  /-- `RSP_STATUS`, 2 bits (R28). -/
  rspStatus : Status
  /-- `RSP_LEN`, 8 bits (R28). -/
  rspLen : Nat
  /-- `RSP_DATA`, bytes (R28). -/
  rspData : Memory
  /-- `HTE_CHAN`, an opaque identifier (R29). -/
  hteChan : Nat
  /-- `STEP`, 3 bits (R30). -/
  stepReg : BitVec 3
  /-- `CUR_BUTTONS`, 16 bits (R32). -/
  curButtons : Half
  /-- `IRQ_EN`, 1 bit (R33). -/
  irqEn : Bool
  /-- `IRQ_PEND`, 1 bit (R34). -/
  irqPend : Bool
  /-- `ENGA_RUN`, 1 bit (R35). -/
  engaRun : Bool
  /-- `ENGA_CFG`, 32 bits (R36). -/
  engaCfg : Word
  /-- `TXQA`, oldest word first (R37). -/
  txqa : List Word
  /-- `RXQA`, oldest word first (R38). -/
  rxqa : List Word
  /-- `RXB`, 8 bits (R39). -/
  rxb : Byte
  /-- `ENGB_AWAIT`, 0 to 2 (R39). -/
  engbAwait : Nat
  /-- `TXQB`, oldest word first (R39). -/
  txqb : List Word
  /-- `FAULTS`, a set: the codes in rising order, each once (R40). -/
  faults : List FaultCode
  /-- Model's own: the OPEN parameters the model takes as an argument (R7; log 6). -/
  params : Config.Params
  /-- Model's own: the agents' moves still to come, in the total order of R59 (log 1). -/
  sched : List Move
  /-- Model's own: how many free moves have been taken (log 2). -/
  freeCtr : Nat
  deriving DecidableEq, Repr

/-- `IDENT`, read-only: 0x5A41 in every state (R31). -/
def State.ident (_ : State) : Half := Config.ident

/-- Why the machine stops. -/
inductive Fault where
  /-- Raised by `step` alone, in a state whose `FAULTS` (given) is not empty: no agent has a step any more
  (R195). Safe: the machine has no behaviour there either. -/
  | quiescent (codes : List FaultCode)
  deriving DecidableEq, Repr

/-- Why the model gives a step no meaning. -/
inductive Refusal where
  /-- Raised by `exec` alone, for an instruction that has no meaning yet; no arm uses it. Safe. -/
  | notModelled (mnemonic : String)
  /-- Raised by the moves of Machine/Events.lean: the schedule names an agent that has no such step in this
  state (R110, R140, R151, R204: the move is not enabled; log 3). Safe: a stop where the spec has no step. -/
  | noStep (m : Move)
  /-- Raised by `takeMove`: a command whose payload length is not the operation's, which the command port
  never presents (R73; log 4). Safe. -/
  | payloadMismatch
  deriving DecidableEq, Repr

/-- The state after reset (R220). `HTE_BUF`, `RSP_DATA`, `ENGA_CFG` and `RXB` are zero by DESIGN CHOICE
(log 8); `params` and `hteChan` are free constants (log 6); `sched` is empty: a run's moves come from
outside (log 1). -/
def State.reset : State where
  htePhase := .idle
  hteNOut := 0
  hteNIn := 0
  hteIdx := 0
  hteTcnt := 0
  hteSettle := 0
  hteBuf := []
  rspStatus := .none
  rspLen := 0
  rspData := []
  hteChan := Config.hteChan
  stepReg := 0#3
  curButtons := Config.idleButtons
  irqEn := false
  irqPend := false
  engaRun := false
  engaCfg := 0#32
  txqa := []
  rxqa := []
  rxb := 0#8
  engbAwait := 0
  txqb := []
  faults := []
  params := Config.params
  sched := []
  freeCtr := 0

end Sys2Proof.Machine
end

