-- ==== Sys2Proof/Machine/Memory.lean ====
section
/-! DEFINITION. The byte arrays HTE_BUF and RSP_DATA (spec 10_state.md R27, R28): reading and writing one byte, and the canonical form. -/

namespace Sys2Proof.Machine

/-- What an index that is not listed reads as: the value of an entry nothing has written, 0x00 (DESIGN
CHOICE, log 8; the spec gives the entries no reset value). -/
def unlistedByte : Byte := 0x00#8

/-- Entry `i` of a byte array. -/
def Memory.read : Memory → Nat → Byte
  | [], _ => unlistedByte
  | (j, b) :: m, i => if j = i then b else Memory.read m i

/-- Put `b` at the head of a canonical list, leaving it out where it is what an unlisted index reads. -/
def consCell (i : Nat) (b : Byte) (m : Memory) : Memory :=
  if b = unlistedByte then m else (i, b) :: m

/-- Write entry `i` of a byte array, keeping the canonical form. -/
def Memory.write : Memory → Nat → Byte → Memory
  | [], i, b => consCell i b []
  | (j, c) :: m, i, b =>
    if i < j then consCell i b ((j, c) :: m)
    else if i = j then consCell i b m
    else (j, c) :: Memory.write m i b

/-- The canonical form above a lower bound: indexes strictly rise, and no listed byte is the unlisted one. -/
def Memory.wfFrom : Nat → Memory → Bool
  | _, [] => true
  | lo, (j, b) :: m => decide (lo ≤ j) && b != unlistedByte && Memory.wfFrom (j + 1) m

/-- The canonical form: equal arrays are equal lists. -/
def Memory.wf (m : Memory) : Bool := Memory.wfFrom 0 m

/-- `dst[i] <- src[i]` for `i` in `0 .. n-1` (the loop of R111). -/
def copyBytes : Nat → Memory → Memory → Memory
  | 0, _, dst => dst
  | n + 1, src, dst => Memory.write (copyBytes n src dst) n (Memory.read src n)

/-- Entries `0 .. n-1` of a byte array, in order. -/
def bytesBelow (n : Nat) (m : Memory) : List Byte := (List.range n).map (Memory.read m)

end Sys2Proof.Machine
end

