-- ==== Sys2Proof/Machine/Flags.lean ====
section
/-! DEFINITION. The core's two flags: the continue flag as its word, and RSP_STATUS with the result PROC reads (spec 10_state.md R28, R41; 30_encoding.md R74, R78); and the numeric codes. -/

namespace Sys2Proof.Machine

/-- The continue word: all 32 bits set if more data follows, zero on the last byte (R78). -/
def continueWord (cont : Bool) : Word := if cont then 0xFFFFFFFF#32 else 0x00000000#32

/-- The 2-bit code of `HTE_PHASE` (R22). -/
def phaseCode : Phase → BitVec 2
  | .idle => 0
  | .settle => 1
  | .recv => 2
  | .three => 3

/-- The 2-bit code of `RSP_STATUS` (R74). -/
def statusCode : Status → BitVec 2
  | .ok => 0
  | .timeout => 1
  | .badRequest => 2
  | .none => 3

/-- The number of a fault code (R194). -/
def faultNumber : FaultCode → Nat
  | .reservedOp => 1
  | .unguardedPublish => 2
  | .hteBusy => 3
  | .txqbFull => 4
  | .internal => 5

/-- What PROC reads when a TRANSACT returns: `RSP_STATUS` and the `RSP_LEN` result bytes. Entries of
`RSP_DATA` at and above `RSP_LEN` are not readable (R28, R115, U2). -/
def response (s : State) : Status × List Byte := (s.rspStatus, bytesBelow s.rspLen s.rspData)

end Sys2Proof.Machine
end

