-- ==== Sys2Proof/Machine/Operands.lean ====
section
/-! DEFINITION. Operand assembly and the queue word formats (spec 20_memory.md R54, R55; 30_encoding.md R75 to R81). -/

namespace Sys2Proof.Machine

/-- The low byte `v[7:0]` of a 16-bit register (R11). -/
def lowByte (v : Half) : Byte := v.extractLsb' 0 8

/-- The high byte `v[15:8]` of a 16-bit register (R11). -/
def highByte (v : Half) : Byte := v.extractLsb' 8 8

/-- `HDR_FN(n_out) = 8 · n_out`, the engine-A header word (R75, decision D8; log 20). -/
def hdrFn (nOut : Nat) : Word := BitVec.ofNat 32 (8 * nOut)

/-- The bit-length engine A is configured with, `8 · n_out` (R36). -/
def engaBitLength (nOut : Nat) : Word := BitVec.ofNat 32 (8 * nOut)

/-- The engine-A outgoing byte word `zext_32(o) << 24` (R76). -/
def txByteWord (o : Byte) : Word := o.setWidth 32 <<< 24

/-- The byte `w[31:24]` of an engine-A receive word; `w[23:0]` is ignored (R55, R77). -/
def rxByte (w : Word) : Byte := w.extractLsb' 24 8

/-- The words TRANSACT pushes to `TXQA`, in order: the header, then the outgoing bytes (R103). -/
def setupWords (out : List Byte) : List Word := hdrFn out.length :: out.map txByteWord

/-- `BUSB_TX_PACK(r) = zext_32(r)`, the engine-B reply word (R79, decision D18; log 20). -/
def busbTxPack (r : Byte) : Word := r.setWidth 32

/-- `INVALID_REPLY`, the reply byte of a rejected byte (R7, R143, decision D16; log 20). -/
def invalidReply : Byte := 0x00#8

/-- The terminal reply of step 4 (R148). -/
def terminalReply : Byte := 0x00#8

/-- The HANDLER's decode key `K = {STEP[2:0], b[7:0]}` with `b = RXB` (R81). -/
def handlerKey (s : State) : BitVec 11 := s.stepReg ++ s.rxb

end Sys2Proof.Machine
end

