-- ==== Sys2Proof/Machine/Ops.lean ====
section
/-! DEFINITION. The shared operations: queues, raising a fault, the phase check of the host operations, and the interrupt's reply (spec 00_scope.md R13, R14; 41_slave_responder.md R141; 42_shared_state_control.md R175). -/

namespace Sys2Proof.Machine

/-- The outcome of a step of this machine. -/
abbrev Result := Host.Outcome State Fault Refusal

/-- `Full(Q)` of a queue of depth `depth` (R13). On a queue that is not longer than its depth, which every
reachable queue is, this is `Count(Q) = DEPTH(Q)` (log 11). -/
def queueFull (depth : Nat) (q : List Word) : Bool := decide (depth ≤ q.length)

/-- `Push(Q, w)`: append at the young end (R13). -/
def queuePush (q : List Word) (w : Word) : List Word := q ++ [w]

/-- Add a code to the fault set, kept in rising order with no repeats (R14, R40). -/
def insertFault (c : FaultCode) : List FaultCode → List FaultCode
  | [] => [c]
  | d :: ds =>
    if faultNumber c < faultNumber d then c :: d :: ds
    else if c = d then d :: ds
    else d :: insertFault c ds

/-- The state with `code` in `FAULTS` and nothing else changed (R14). -/
def State.addFault (s : State) (code : FaultCode) : State := { s with faults := insertFault code s.faults }

/-- Taking a fault, `raise Fault(code)`: the code is recorded, nothing else changes, and the machine has no
further step (R14, R195). -/
def raiseFault (code : FaultCode) (s : State) : Result := .next (s.addFault code)

/-- A host operation runs in phase IDLE; in every other phase the command port answers `F_HTE_BUSY` and
nothing else changes (R175, R199 (c)). -/
def whenIdle (s : State) (run : Result) : Result :=
  if s.htePhase = .idle then run else raiseFault .hteBusy s

/-- The writes of one HANDLER step, in the order of R141: the continue word, the reply word, `ENGB_AWAIT`,
`STEP`, and `IRQ_PEND` last. The last write is the return from the interrupt (R197, R201). DEDUCED: `RXB` keeps its
byte (R200; log 24). -/
def State.reply (s : State) (cont : Bool) (r : Byte) (nextStep : BitVec 3) : State :=
  { s with
    txqb := queuePush (queuePush s.txqb (continueWord cont)) (busbTxPack r)
    engbAwait := 0
    stepReg := nextStep
    irqPend := false }

/-- The HANDLER step body of R141 for a decoded row `(cont, reply, next)`: the space check of R154
(`Count(TXQB) > TXQB_DEPTH - 2`, fewer than two free slots), then the writes. It saves nothing and changes no
mode (R200). -/
def answerByte (cont : Bool) (r : Byte) (nextStep : BitVec 3) (s : State) : Result :=
  if s.params.txqbDepth < s.txqb.length + 2 then raiseFault .txqbFull s
  else .next (s.reply cont r nextStep)

end Sys2Proof.Machine
end

