-- ==== Sys2Proof/Machine/Hte.lean ====
section
/-! DEFINITION. The Host Transaction Engine's operations: SETUP, the receive drain, entering RECV and the two completions (spec 40_host_transaction_engine.md R102 to R106, R111, R112). -/

namespace Sys2Proof.Machine

/-- The request constraints of R102 broken: `n_out = 0 or n_out > MAX_OUT or n_in > MAX_IN`. -/
abbrev badRequest (p : Config.Params) (nOut nIn : Nat) : Prop :=
  nOut = 0 ∨ p.maxOut < nOut ∨ p.maxIn < nIn

/-- The rejection: `RSP_STATUS <- BAD_REQUEST; RSP_LEN <- 0`, nothing else (R102). -/
def rejectRequest (s : State) : State := { s with rspStatus := .badRequest, rspLen := 0 }

/-- The SETUP sequence of R103. `ENGA_RUN` is 0 during it and 1 at its end; both queues are cleared before
the pushes. -/
def setup (out : List Byte) (nIn : Nat) (s : State) : State :=
  { s with
    engaRun := true
    txqa := setupWords out
    rxqa := []
    engaCfg := engaBitLength out.length
    hteNOut := out.length
    hteNIn := nIn
    hteIdx := 0 }

/-- `complete(OK)` (R111, R113). -/
def completeOk (s : State) : State :=
  { s with
    rspStatus := .ok
    rspLen := s.hteNIn
    rspData := copyBytes s.hteNIn s.hteBuf s.rspData
    engaRun := false
    htePhase := .idle }

/-- `complete(TIMEOUT)`: no partial result (R112, R113). DESIGN CHOICE: `HTE_BUF`, which may hold any value after a
TIMEOUT (93 U1), keeps the bytes received so far (log 23). DEDUCED: `HTE_TCNT` is reset, as R12
says of its reaching `TIMEOUT_TICKS`, though R112's pseudocode does not list the write (log 25). -/
def completeTimeout (s : State) : State :=
  { s with rspStatus := .timeout, rspLen := 0, engaRun := false, hteTcnt := 0, htePhase := .idle }

/-- One accepted RX word: the byte is stored and the next byte gets a fresh timeout (R106). -/
def acceptWord (w : Word) (s : State) : State :=
  { s with
    hteBuf := Memory.write s.hteBuf s.hteIdx (rxByte w)
    hteIdx := s.hteIdx + 1
    hteTcnt := 0 }

/-- The loop of R106 over the words of `RXQA`, oldest first: pop while a byte is missing. -/
def drainLoop : List Word → State → State
  | [], s => { s with rxqa := [] }
  | w :: q, s => if s.hteIdx < s.hteNIn then drainLoop q (acceptWord w s) else { s with rxqa := w :: q }

/-- `if HTE_IDX = HTE_NIN: complete(OK)`, the end of R106. -/
def completeIfAll (s : State) : State := if s.hteIdx = s.hteNIn then completeOk s else s

/-- The receive drain (R106). -/
def drain (s : State) : State := completeIfAll (drainLoop s.rxqa s)

/-- `enter_recv()` (R105). -/
def enterRecv (s : State) : State := drain { s with htePhase := .recv, hteTcnt := 0 }

/-- The settle wait begins: `HTE_SETTLE`, `HTE_TCNT` and the phase; a settle wait of no ticks enters RECV at
once (R101, R104, R105). -/
def startSettle (nOut : Nat) (s : State) : State :=
  let s' := { s with hteSettle := Config.settleTicks s.params nOut, hteTcnt := 0, htePhase := .settle }
  if s'.hteSettle = 0 then enterRecv s' else s'

end Sys2Proof.Machine
end

