-- ==== Sys2Proof/Machine/HostOps.lean ====
section
/-! DEFINITION. The meanings of the host operations TRANSACT, PUBLISH, IRQ_DISABLE and IRQ_ENABLE (spec 40_host_transaction_engine.md R101; 42_shared_state_control.md R170 to R172). -/

namespace Sys2Proof.Machine

/-- TRANSACT (R101): start one bus-A transaction. -/
def execTransact (out : List Byte) (nIn : Byte) (s : State) : Result :=
  if s.htePhase = .three then raiseFault .internal s
  else
    whenIdle s
      (if badRequest s.params out.length nIn.toNat then .next (rejectRequest s)
      else .next (startSettle out.length (setup out nIn.toNat s)))

/-- PUBLISH (R170): write `CUR_BUTTONS`, inside a critical section only. -/
def execPublish (v : Half) (s : State) : Result :=
  whenIdle s (if s.irqEn then raiseFault .unguardedPublish s else .next { s with curButtons := v })

/-- IRQ_DISABLE (R171): mask the bus-B byte interrupt. -/
def execIrqDisable (s : State) : Result := whenIdle s (.next { s with irqEn := false })

/-- IRQ_ENABLE (R172): unmask the bus-B byte interrupt. -/
def execIrqEnable (s : State) : Result := whenIdle s (.next { s with irqEn := true })

end Sys2Proof.Machine
end

