-- ==== Sys2Proof/Machine/Responder.lean ====
section
/-! DEFINITION. The meanings of the nine responder decode rows (spec 41_slave_responder.md R142 to R149), each the HANDLER step body of R141 with the row's continue flag, reply byte and next STEP. -/

namespace Sys2Proof.Machine

/-- RSP_S0_ACCEPT (R142): reply `IDENT[7:0]`, cont true, STEP 1. -/
def execRspS0Accept (s : State) : Result := answerByte true (lowByte s.ident) 1#3 s

/-- RSP_S0_REJECT (R143): reply `INVALID_REPLY`, cont false, STEP 0. -/
def execRspS0Reject (_b : Byte) (s : State) : Result := answerByte false invalidReply 0#3 s

/-- RSP_S1_ACCEPT (R144): reply `IDENT[15:8]`, cont true, STEP 2. -/
def execRspS1Accept (s : State) : Result := answerByte true (highByte s.ident) 2#3 s

/-- RSP_S1_REJECT (R145): reply `INVALID_REPLY`, cont false, STEP 0. -/
def execRspS1Reject (_b : Byte) (s : State) : Result := answerByte false invalidReply 0#3 s

/-- RSP_S2 (R146): reply `CUR_BUTTONS[7:0]`, cont true, STEP 3. -/
def execRspS2 (_b : Byte) (s : State) : Result := answerByte true (lowByte s.curButtons) 3#3 s

/-- RSP_S3 (R147): reply `CUR_BUTTONS[15:8]`, cont true, STEP 4. -/
def execRspS3 (_b : Byte) (s : State) : Result := answerByte true (highByte s.curButtons) 4#3 s

/-- RSP_S4 (R148): reply 0x00, cont false, STEP 0. -/
def execRspS4 (_b : Byte) (s : State) : Result := answerByte false terminalReply 0#3 s

/-- RSP_ILLEGAL_STEP5 (R149): reply `INVALID_REPLY`, cont false, STEP 0. -/
def execRspIllegalStep5 (_b : Byte) (s : State) : Result := answerByte false invalidReply 0#3 s

/-- RSP_ILLEGAL_STEP67 (R149): reply `INVALID_REPLY`, cont false, STEP 0. -/
def execRspIllegalStep67 (_lowBit : BitVec 1) (_b : Byte) (s : State) : Result :=
  answerByte false invalidReply 0#3 s

end Sys2Proof.Machine
end

