-- ==== Sys2Proof/Machine/Dispatch.lean ====
section
/-! DEFINITION. Which meaning each instruction has, one arm per constructor. -/

namespace Sys2Proof.Machine

def exec (i : Instr) (s : State) : Host.Outcome State Fault Refusal :=
  match i with
  | .transact out nIn => Sys2Proof.Machine.execTransact out nIn s
  | .publish v => Sys2Proof.Machine.execPublish v s
  | .irqDisable => Sys2Proof.Machine.execIrqDisable s
  | .irqEnable => Sys2Proof.Machine.execIrqEnable s
  | .rspS0Accept => Sys2Proof.Machine.execRspS0Accept s
  | .rspS0Reject b => Sys2Proof.Machine.execRspS0Reject b s
  | .rspS1Accept => Sys2Proof.Machine.execRspS1Accept s
  | .rspS1Reject b => Sys2Proof.Machine.execRspS1Reject b s
  | .rspS2 b => Sys2Proof.Machine.execRspS2 b s
  | .rspS3 b => Sys2Proof.Machine.execRspS3 b s
  | .rspS4 b => Sys2Proof.Machine.execRspS4 b s
  | .rspIllegalStep5 b => Sys2Proof.Machine.execRspIllegalStep5 b s
  | .rspIllegalStep67 lowBit b => Sys2Proof.Machine.execRspIllegalStep67 lowBit b s

end Sys2Proof.Machine
end

