-- ==== Sys2Proof/Machine/Events.lean ====
section
/-! DEFINITION. The environment events: TICK, RXA_PUSH, ENGA_TAKE, BYTE_B and ENGB_TAKE, each refused by name where the spec has no such step (spec 40_host_transaction_engine.md R107 to R110; 41_slave_responder.md R151; 60_exceptions.md R204). -/

namespace Sys2Proof.Machine

/-- TICK in phase SETTLE (R107). -/
def tickSettle (s : State) : State :=
  let s' := { s with hteTcnt := s.hteTcnt + 1 }
  if s'.hteSettle ≤ s'.hteTcnt then enterRecv s' else s'

/-- TICK in phase RECV: the per-byte timeout (R108). -/
def tickRecv (s : State) : State :=
  let s' := { s with hteTcnt := s.hteTcnt + 1 }
  if Config.timeoutTicks ≤ s'.hteTcnt then completeTimeout s' else s'

/-- TICK, by the phase: R109 in IDLE, R107 in SETTLE, R108 in RECV; the unreachable phase 3 raises
`F_INTERNAL` (R22; log 10). -/
def evTick (s : State) : Result :=
  match s.htePhase with
  | .idle => .next s
  | .settle => .next (tickSettle s)
  | .recv => .next (tickRecv s)
  | .three => raiseFault .internal s

/-- RXA_PUSH is enabled: engine A runs and `RXQA` is not full (R110). -/
def rxaEnabled (s : State) : Bool := s.engaRun && !queueFull s.params.rxqaDepth s.rxqa

/-- RXA_PUSH(w): engine A completes one incoming byte (R110). -/
def evRxa (w : Word) (s : State) : Result :=
  if rxaEnabled s then
    let s' := { s with rxqa := queuePush s.rxqa w }
    .next (if s'.htePhase = .recv then drain s' else s')
  else .refused (.noStep (.rxa w))

/-- ENGA_TAKE: engine A, running, consumes the oldest TX word (R204). -/
def evTakeA (s : State) : Result :=
  match s.engaRun, s.txqa with
  | true, _ :: q => .next { s with txqa := q }
  | _, _ => .refused (.noStep .takeA)

/-- BYTE_B is enabled: no byte is pending and engine B awaits no reply word (R151). -/
def byteBEnabled (s : State) : Bool := !s.irqPend && s.engbAwait == 0

/-- BYTE_B(b): engine B has received one full byte (R151). -/
def evByteB (b : Byte) (s : State) : Result :=
  if byteBEnabled s then .next { s with rxb := b, irqPend := true, engbAwait := 2 }
  else .refused (.noStep (.byteB b))

/-- ENGB_TAKE: engine B consumes the oldest reply word (R204). -/
def evTakeB (s : State) : Result :=
  match s.txqb with
  | _ :: q => .next { s with txqb := q }
  | [] => .refused (.noStep .takeB)

end Sys2Proof.Machine
end

