-- ==== Sys2Proof/Machine/Moves.lean ====
section
/-! DEFINITION. One move of one agent: PROC's command decoded and executed, the HANDLER's row decoded and executed, or an event (spec 00_scope.md R5, R6; 30_encoding.md R72, R86; 41_slave_responder.md R140, R141). -/

namespace Sys2Proof.Machine

/-- PROC presents a command word: decoded by R72, then executed; a reserved word raises `F_RESERVED_OP` in
any phase (R173, R199 (c)). -/
def presentCommand (w : Word) (payload : List Byte) (s : State) : Result :=
  match decodeCommand w payload with
  | .ok i => exec i s
  | .error .reserved => raiseFault .reservedOp s
  | .error _ => .refused .payloadMismatch

/-- The HANDLER step is enabled: `IRQ_EN = 1` and `IRQ_PEND = 1`; that `FAULTS` is empty is checked by
`step` (R140). -/
def handlerEnabled (s : State) : Bool := s.irqEn && s.irqPend

/-- Taking the interrupt: the row of `(STEP, RXB)` is decoded and executed (R141, R200). -/
def takeInterrupt (s : State) : Result :=
  if handlerEnabled s then
    match decodeKey (handlerKey s) with
    | .ok i => exec i s
    | .error _ => .refused (.noStep .irq)
  else .refused (.noStep .irq)

/-- One move. -/
def takeMove (m : Move) (s : State) : Result :=
  match m with
  | .cmd w payload => presentCommand w payload s
  | .irq => takeInterrupt s
  | .rxa w => evRxa w s
  | .takeA => evTakeA s
  | .tick => evTick s
  | .byteB b => evByteB b s
  | .takeB => evTakeB s

/-- A free move: where the agent it names has no step, no agent moves (log 2). -/
def takeFreeMove (m : Move) (s : State) : Result :=
  match takeMove m s with
  | .refused _ => .next s
  | .next t => .next t
  | .fault r => .fault r

/-- The pseudo-operation CRIT_PUBLISH v: three commands with nothing between them (R86). -/
def critPublish (v : Half) : List Move :=
  [.cmd 0x30000000#32 [], .cmd (0x2000#16 ++ v) [], .cmd 0x40000000#32 []]

/-- Place an encoded instruction so that the next step runs it. A command is the next move of PROC. A key
is the byte in `RXB` at the step in `STEP`, pending, with engine B stalled as BYTE_B leaves it and the
interrupt enabled; the next move is the HANDLER's (log 1). -/
def placeEncoded (e : Encoded) (s : State) : State :=
  match e with
  | .command w payload => { s with sched := .cmd w payload :: s.sched }
  | .key k =>
    { s with
      stepReg := k.extractLsb' 8 3
      rxb := keyByte k
      irqPend := true
      engbAwait := 2
      irqEn := true
      sched := .irq :: s.sched }

end Sys2Proof.Machine
end

