-- ==== Sys2Proof/Machine/Step.lean ====
section
/-! DEFINITION. One step of the machine: the next move of the schedule, or a free move when the schedule is used up; no step in a faulted state (spec 20_memory.md R59; 60_exceptions.md R195). -/

namespace Sys2Proof.Machine

/-- One step (R59, R195; log 1, log 2). -/
def step (s : State) : Host.Outcome State Fault Refusal :=
  match s.faults with
  | [] =>
    match s.sched with
    | m :: rest => takeMove m { s with sched := rest }
    | [] => takeFreeMove (Config.freeMove s.freeCtr) { s with freeCtr := s.freeCtr + 1 }
  | c :: cs => .fault (.quiescent (c :: cs))

/-- `s` with the opcode table's number `w` of `nbits` bits placed where the next step takes its instruction
(log 1, log 22); a number that is no encoding places nothing. -/
def State.withFetchWord (s : State) (nbits w : Nat) : State :=
  match tableEncoded nbits w with
  | some e => placeEncoded e s
  | none => s

end Sys2Proof.Machine
end

