-- ==== Sys2Proof/Safety.lean ====
section
/-! DEFINITION. The terms that claims use: runs, what a fair run is, the invariants of the spec, the parts of the state for frames, the responder's step table, and the ticks a transaction still has. -/

namespace Sys2Proof.Machine

/-! ### Runs -/

/-- `n` steps, stopping at the first fault or refusal. -/
def stepN : Nat → State → Result
  | 0, s => .next s
  | n + 1, s =>
    match step s with
    | .next t => stepN n t
    | .fault r => .fault r
    | .refused r => .refused r

/-- The move the next step takes: the schedule's first, or the free one. -/
def nextMove (s : State) : Move :=
  match s.sched with
  | m :: _ => m
  | [] => Config.freeMove s.freeCtr

/-- An infinite run on the moves `moves`: each state is the step of the one before it, given that move (R59). -/
def IsRun (moves : Nat → Move) (run : Nat → State) : Prop :=
  ∀ n, step { run n with sched := [moves n] } = .next (run (n + 1))

/-- Weak fairness of TICK: ticks keep coming (R203; log 16). -/
def TicksKeepComing (moves : Nat → Move) : Prop := ∀ n, ∃ m, n ≤ m ∧ moves m = .tick

/-- Weak fairness of the HANDLER: a HANDLER step that stays enabled is eventually taken (R198; log 16). -/
def HandlerFair (moves : Nat → Move) (run : Nat → State) : Prop :=
  ∀ n, (∀ m, n ≤ m → handlerEnabled (run m) = true) → ∃ m, n ≤ m ∧ moves m = .irq

/-- Moves that PROC does not make: what can happen while PROC is blocked in a TRANSACT (R115). -/
def ProcBlocked (ms : List Move) : Prop := ∀ m ∈ ms, ∀ w payload, m ≠ .cmd w payload

/-- A received byte (BYTE_B). -/
def isByteB : Move → Bool
  | .byteB _ => true
  | .cmd _ _ => false
  | .irq => false
  | .rxa _ => false
  | .takeA => false
  | .tick => false
  | .takeB => false

/-- The bus-B master sends the bytes `bs` one after the other, each handled and its two reply words taken. -/
def serveBytes (bs : List Byte) : List Move := bs.flatMap fun b => [.byteB b, .irq, .takeB, .takeB]

/-! ### Invariants -/

/-- The invariants of R120 (a) to (e). -/
abbrev HteInv (s : State) : Prop :=
  (s.engaRun = true ↔ s.htePhase ≠ .idle) ∧
  (s.htePhase = .recv → s.hteIdx < s.hteNIn ∧ s.rxqa = []) ∧
  (s.htePhase = .settle → s.hteTcnt < s.hteSettle) ∧
  (s.htePhase = .recv → s.hteTcnt < Config.timeoutTicks) ∧
  s.htePhase ≠ .three

/-- The request of the running transaction (R22 to R26, R36, R102): its counts are in range, its settle wait
and bit-length are those of its length, and no byte is accepted before RECV. -/
abbrev RequestInv (s : State) : Prop :=
  s.hteIdx ≤ s.hteNIn ∧
  (s.htePhase = .settle → s.hteIdx = 0) ∧
  (s.htePhase ≠ .idle →
    1 ≤ s.hteNOut ∧ s.hteNOut ≤ s.params.maxOut ∧ s.hteNIn ≤ s.params.maxIn ∧
    s.hteSettle = Config.settleTicks s.params s.hteNOut ∧ s.engaCfg = engaBitLength s.hteNOut)

/-- The widths of the counters (10_state.md section 8, R12). -/
abbrev WidthsHold (s : State) : Prop :=
  s.hteNOut < 2 ^ 8 ∧ s.hteNIn < 2 ^ 8 ∧ s.hteIdx < 2 ^ 8 ∧ s.rspLen < 2 ^ 8 ∧
  s.hteTcnt < 2 ^ Config.cntW ∧ s.hteSettle < 2 ^ Config.cntW ∧ s.engbAwait < 2 ^ 2

/-- No queue is longer than its depth (R13, R37 to R39). -/
abbrev QueuesFit (s : State) : Prop :=
  s.txqa.length ≤ s.params.txqaDepth ∧ s.rxqa.length ≤ s.params.rxqaDepth ∧
  s.txqb.length ≤ s.params.txqbDepth

/-- Every listed index of a byte array is below `n`. -/
def Memory.below (n : Nat) (m : Memory) : Bool := m.all fun c => decide (c.1 < n)

/-- The byte arrays are canonical and hold only the indexes `0 .. MAX_IN - 1` (R27, R28). -/
abbrev ArraysInv (s : State) : Prop :=
  Memory.wf s.hteBuf = true ∧ Memory.wf s.rspData = true ∧
  Memory.below s.params.maxIn s.hteBuf = true ∧ Memory.below s.params.maxIn s.rspData = true

/-- `STEP` stays in 0 to 4 (R30), and engine B awaits its two words exactly while a byte is pending
(R151, R152). -/
abbrev ResponderInv (s : State) : Prop :=
  s.stepReg ≤ 4#3 ∧ (s.irqPend = true → s.engbAwait = 2) ∧ (s.irqPend = false → s.engbAwait = 0)

/-- The result is all or nothing: only OK comes with bytes, at most `MAX_IN` of them (R28). -/
abbrev ResponseInv (s : State) : Prop :=
  (s.rspStatus ≠ .ok → s.rspLen = 0) ∧ s.rspLen ≤ s.params.maxIn

/-- `FAULTS` holds at most the one code that stopped the machine (R195). -/
abbrev FaultsInv (s : State) : Prop := s.faults.length ≤ 1

/-- The invariant of the core. -/
abbrev CoreInv (s : State) : Prop :=
  s.params.wf ∧ HteInv s ∧ RequestInv s ∧ WidthsHold s ∧ QueuesFit s ∧ ArraysInv s ∧ ResponderInv s ∧
    ResponseInv s ∧ FaultsInv s

/-! ### Parts of the state, for frames -/

/-- The HTE's registers and its buffer read the same (R22 to R27, R29). -/
def SameHte (s t : State) : Prop :=
  t.htePhase = s.htePhase ∧ t.hteNOut = s.hteNOut ∧ t.hteNIn = s.hteNIn ∧ t.hteIdx = s.hteIdx ∧
  t.hteTcnt = s.hteTcnt ∧ t.hteSettle = s.hteSettle ∧ t.hteChan = s.hteChan ∧
  ∀ i, Memory.read t.hteBuf i = Memory.read s.hteBuf i

/-- The response registers read the same, every entry of `RSP_DATA` included (R28). -/
def SameResponse (s t : State) : Prop :=
  t.rspStatus = s.rspStatus ∧ t.rspLen = s.rspLen ∧ ∀ i, Memory.read t.rspData i = Memory.read s.rspData i

/-- Engine A's interface is the same (R35 to R38). -/
def SameEngineA (s t : State) : Prop :=
  t.engaRun = s.engaRun ∧ t.engaCfg = s.engaCfg ∧ t.txqa = s.txqa ∧ t.rxqa = s.rxqa

/-- Engine B's interface and the pending bit are the same (R34, R39). -/
def SameEngineB (s t : State) : Prop :=
  t.rxb = s.rxb ∧ t.engbAwait = s.engbAwait ∧ t.txqb = s.txqb ∧ t.irqPend = s.irqPend

/-- The shared button register and the interrupt enable are the same (R32, R33). -/
def SameShared (s t : State) : Prop := t.curButtons = s.curButtons ∧ t.irqEn = s.irqEn

/-- The model's own fields are the same. -/
def SameOwn (s t : State) : Prop := t.params = s.params ∧ t.sched = s.sched ∧ t.freeCtr = s.freeCtr

/-! ### The responder's step table -/

/-- The step table of the source's §4.2 by step and received byte, as 95_test_vectors.md L1-8 has it, with the
decided replies of rejected bytes and illegal steps (R143, R145, R149): continue flag, reply byte, next step. -/
def stepTable (stepNow : Nat) (b : Byte) (buttons : Half) : Bool × Byte × BitVec 3 :=
  match stepNow with
  | 0 => if b = 0x01#8 then (true, 0x41#8, 1#3) else (false, 0x00#8, 0#3)
  | 1 => if b = 0x42#8 then (true, 0x5A#8, 2#3) else (false, 0x00#8, 0#3)
  | 2 => (true, BitVec.ofNat 8 buttons.toNat, 3#3)
  | 3 => (true, BitVec.ofNat 8 (buttons.toNat / 256), 4#3)
  | _ => (false, 0x00#8, 0#3)

/-- `s` after a HANDLER step that pushed the words `c` and `r` and moved `STEP` to `n` (R141). -/
def answered (s : State) (c r : Word) (n : BitVec 3) : State :=
  { s with txqb := s.txqb ++ [c, r], engbAwait := 0, stepReg := n, irqPend := false }

/-! ### Transactions -/

/-- The most ticks the running transaction can still take (R119). -/
def ticksLeft (s : State) : Nat :=
  match s.htePhase with
  | .settle => (s.hteSettle - s.hteTcnt) + s.hteNIn * Config.timeoutTicks
  | .recv => (Config.timeoutTicks - s.hteTcnt) + (s.hteNIn - s.hteIdx - 1) * Config.timeoutTicks
  | .idle => 0
  | .three => 0

/-- Two states agree on all that a transaction's result can depend on (R118): while one runs, its request, its
counters, the bytes accepted so far and engine A's interface; when none runs, the result PROC reads. The byte
arrays of both are in canonical form. -/
def HteAgree (s t : State) : Prop :=
  (Memory.wf s.hteBuf = true ∧ Memory.wf s.rspData = true) ∧
  (Memory.wf t.hteBuf = true ∧ Memory.wf t.rspData = true) ∧
  s.params = t.params ∧ s.htePhase = t.htePhase ∧ s.engaRun = t.engaRun ∧
  (s.htePhase = .idle → response s = response t) ∧
  (s.htePhase ≠ .idle →
    s.hteNOut = t.hteNOut ∧ s.hteNIn = t.hteNIn ∧ s.hteIdx = t.hteIdx ∧ s.hteTcnt = t.hteTcnt ∧
    s.hteSettle = t.hteSettle ∧ s.engaCfg = t.engaCfg ∧ s.txqa = t.txqa ∧ s.rxqa = t.rxqa ∧
    bytesBelow s.hteIdx s.hteBuf = bytesBelow t.hteIdx t.hteBuf)

/-- The moves that drive a running transaction: TICK, RXA_PUSH and ENGA_TAKE (R5, R6, R204). -/
def isHteMove : Move → Bool
  | .tick => true
  | .rxa _ => true
  | .takeA => true
  | .cmd _ _ => false
  | .irq => false
  | .byteB _ => false
  | .takeB => false

/-- The moves of the bus-B side: HANDLER, BYTE_B and ENGB_TAKE. -/
def isResponderMove : Move → Bool
  | .irq => true
  | .byteB _ => true
  | .takeB => true
  | .tick => false
  | .rxa _ => false
  | .takeA => false
  | .cmd _ _ => false

end Sys2Proof.Machine
end

