-- ==== Sys2Proof/Certificates/Slice0/Obligations.lean ====
section
/-! DEFINITION. The statements about the core that the provers settle, one for each rule or group of rules of spec/. A docstring names the rule, or, where a statement rests on a decision the spec marks as its own or on a log entry, that decision or entry. A statement about `exec` or `takeMove` without the premise that `FAULTS` is empty speaks of faulted states too, where a run has no step (log 15). -/

open Sys2Proof Sys2Proof.Machine

/-! ### Encoding -/

/-- Decoding the encoding of a well-formed instruction gives it back, every operand at every value
(30_encoding.md sections 1 and 4; the command layout is the spec's decision D3). -/
def Obligations.DecodeEncodeRoundTrip : Prop :=
  ∀ i : Instr, i.wf = true → decode (encode i) = .ok i

/-- Each encoding has one meaning: what decodes is the encoding of what it decodes to, and that is well formed
(30_encoding.md sections 1 and 4). -/
def Obligations.DecodedEncodingReencodes : Prop :=
  ∀ (e : Encoded) (i : Instr), decode e = .ok i → encode i = e ∧ i.wf = true

/-- Every 11-bit responder key decodes, to a responder row (30_encoding.md section 4: "The table is total"). -/
def Obligations.EveryResponderKeyDecodes : Prop :=
  ∀ k : BitVec 11, ∃ i, decode (.key k) = .ok i ∧ i.isHostOp = false

/-- Words written out from the patterns of 30_encoding.md and the vectors D-1, D-4, D-11, D-12, S-1 to S-15
decode to the rows they stand for. -/
def Obligations.WrittenOutWordsDecode : Prop :=
  decode (.command 0b00010000000000000000000100000011#32 [0x40#8]) = .ok (.transact [0x40#8] 0x03#8) ∧
  decode (.command 0b00100000000000001010101111001101#32 []) = .ok (.publish 0xABCD#16) ∧
  decode (.command 0b00110000000000000000000000000000#32 []) = .ok .irqDisable ∧
  decode (.command 0b01000000000000000000000000000000#32 []) = .ok .irqEnable ∧
  decode (.key 0b00000000001#11) = .ok .rspS0Accept ∧
  decode (.key 0b00011111111#11) = .ok (.rspS0Reject 0xFF#8) ∧
  decode (.key 0b00101000010#11) = .ok .rspS1Accept ∧
  decode (.key 0b00100000001#11) = .ok (.rspS1Reject 0x01#8) ∧
  decode (.key 0b01000000001#11) = .ok (.rspS2 0x01#8) ∧
  decode (.key 0b01111111111#11) = .ok (.rspS3 0xFF#8) ∧
  decode (.key 0b10001010101#11) = .ok (.rspS4 0x55#8) ∧
  decode (.key 0b10100000001#11) = .ok (.rspIllegalStep5 0x01#8) ∧
  decode (.key 0b11101000010#11) = .ok (.rspIllegalStep67 1#1 0x42#8)

/-- A presented word that matches none of the four rows raises `F_RESERVED_OP` and changes nothing else, in any
phase and with any payload (30_encoding.md section 1, 42 section on reserved words; the spec's decision D4). -/
def Obligations.ReservedWordsFault : Prop :=
  ∀ (s : State) (w : Word) (payload : List Byte) (rest : List Move),
    s.faults = [] → s.sched = .cmd w payload :: rest →
    w &&& 0xFFFF0000#32 ≠ 0x10000000#32 → w &&& 0xFFFF0000#32 ≠ 0x20000000#32 →
    w ≠ 0x30000000#32 → w ≠ 0x40000000#32 →
    step s = .next { s with sched := rest, faults := [.reservedOp] }

/-! ### What a step does -/

/-- When PROC's presented word and payload decode to an instruction, the step is that instruction's meaning, on
the state with the move taken off the schedule (R6, R72; the schedule is the model's own, log 1). -/
def Obligations.StepRunsPresentedCommand : Prop :=
  ∀ (s : State) (w : Word) (payload : List Byte) (rest : List Move) (i : Instr),
    s.faults = [] → s.sched = .cmd w payload :: rest → decode (.command w payload) = .ok i →
    step s = exec i { s with sched := rest }

/-- When the interrupt is enabled and pending and the HANDLER is next, the step is the meaning of the row that the
key of `STEP` and `RXB` decodes to (R81, R140, R141; the schedule is the model's own, log 1). -/
def Obligations.StepRunsPendingRow : Prop :=
  ∀ (s : State) (rest : List Move) (i : Instr),
    s.faults = [] → s.irqEn = true → s.irqPend = true → s.sched = .irq :: rest →
    decode (.key (s.stepReg ++ s.rxb)) = .ok i →
    step s = exec i { s with sched := rest }

/-- A faulted machine has no step, and so keeps its faults (60_exceptions.md section 2; the spec's decision D29,
and log 14 for the outcome). -/
def Obligations.FaultedMachineHasNoStep : Prop :=
  ∀ s : State, s.faults ≠ [] → step s = .fault (.quiescent s.faults)

/-- When each agent has a step: PROC with any word whose payload is the operation's, the HANDLER when enabled and
pending, engine A when running and with room (RXA) or words (TAKEA), TIMEBASE always, engine B when not stalled
(BYTEB) or with words (TAKEB). The enabling conditions of the other agents are those of 40, 41 and 60 (D19, D26
and D31 are the spec's decisions). PROC's is the model's: R115 gives PROC no step while a transaction runs, and
the model gives it one there, a next state with F_HTE_BUSY (log 5, with the spec's decision D27; log 14). That a
move with no step is refused is log 3, a payload of another length log 4. -/
def Obligations.MoveStepsExactlyWhenEnabled : Prop :=
  ∀ (s : State) (m : Move) (rest : List Move), s.faults = [] → s.sched = m :: rest →
    ((∃ t, step s = .next t) ↔
      match m with
      | .cmd w payload =>
        (w &&& 0xFFFF0000#32 = 0x10000000#32 → payload.length = (w.extractLsb' 8 8).toNat) ∧
        (w &&& 0xFFFF0000#32 = 0x20000000#32 ∨ w = 0x30000000#32 ∨ w = 0x40000000#32 → payload = [])
      | .irq => s.irqEn = true ∧ s.irqPend = true
      | .rxa _ => s.engaRun = true ∧ s.rxqa.length < s.params.rxqaDepth
      | .takeA => s.engaRun = true ∧ s.txqa ≠ []
      | .tick => True
      | .byteB _ => s.irqPend = false ∧ s.engbAwait = 0
      | .takeB => s.txqb ≠ [])

/-! ### Host operations -/

/-- An accepted TRANSACT: the engine-A setup, the settle wait and the phase, and nothing else; the setup words fit
`TXQA` (40 section 1; header, bit-length, byte layout, restart and settle arithmetic are the spec's decisions D8,
D9, D11, D12). -/
def Obligations.TransactStartsTransaction : Prop :=
  ∀ (s : State) (out : List Byte) (nIn : Byte),
    s.faults = [] → s.params.wf → s.htePhase = .idle →
    1 ≤ out.length → out.length ≤ s.params.maxOut → nIn.toNat ≤ s.params.maxIn →
    exec (.transact out nIn) s = .next
      { s with
        engaRun := true
        engaCfg := BitVec.ofNat 32 (8 * out.length)
        txqa := BitVec.ofNat 32 (8 * out.length) :: out.map fun o => (o ++ 0#24 : Word)
        rxqa := []
        hteNOut := out.length
        hteNIn := nIn.toNat
        hteIdx := 0
        hteTcnt := 0
        hteSettle := 32 * out.length + s.params.settleGuard
        htePhase := .settle } ∧
    out.length + 1 ≤ s.params.txqaDepth

/-- A TRANSACT that breaks a request constraint: `BAD_REQUEST` (code 2), `RSP_LEN` 0, nothing else, and PROC is
not blocked (40 section 1, 60 section 1; the spec's decision D6). -/
def Obligations.TransactRejectsBadRequest : Prop :=
  ∀ (s : State) (out : List Byte) (nIn : Byte),
    s.faults = [] → s.htePhase = .idle →
    (out.length = 0 ∨ s.params.maxOut < out.length ∨ s.params.maxIn < nIn.toNat) →
    exec (.transact out nIn) s = .next { s with rspStatus := .badRequest, rspLen := 0 } ∧
    statusCode .badRequest = 2#2

/-- A host operation while a transaction runs raises `F_HTE_BUSY`; in the unused phase 3 TRANSACT raises
`F_INTERNAL` and the others `F_HTE_BUSY`; nothing else changes (42, 60 sections 2 and 3; the spec's decision
D27). -/
def Obligations.HostOpsWhileBusyFault : Prop :=
  ∀ (s : State) (i : Instr), i.isHostOp = true → s.faults = [] → s.htePhase ≠ .idle →
    (s.htePhase ≠ .three → exec i s = .next { s with faults := [.hteBusy] }) ∧
    (s.htePhase = .three →
      exec i s = .next { s with faults := [match i with | .transact _ _ => .internal | _ => .hteBusy] })

/-- PUBLISH writes the button register inside a critical section and faults outside it, writing nothing (42; that
the outcome outside is a fault, and that every value is accepted, are the spec's decisions D21 and D33). -/
def Obligations.PublishWritesButtons : Prop :=
  ∀ (s : State) (v : Half), s.faults = [] → s.htePhase = .idle →
    (s.irqEn = false → exec (.publish v) s = .next { s with curButtons := v }) ∧
    (s.irqEn = true → exec (.publish v) s = .next { s with faults := [.unguardedPublish] })

/-- CRIT_PUBLISH is the three commands IRQ_DISABLE, PUBLISH v, IRQ_ENABLE with nothing between (30 section 5); it
writes the button register from any state of the interrupt enable, where a bare PUBLISH with the interrupt enabled
faults (42; that fault is the spec's decision D21). -/
def Obligations.CritPublishWritesButtons : Prop :=
  ∀ v : Half,
    (∀ a b c : Word, encode .irqDisable = .command a [] → encode (.publish v) = .command b [] →
      encode .irqEnable = .command c [] → critPublish v = [.cmd a [], .cmd b [], .cmd c []]) ∧
    (∀ (s : State) (rest : List Move), s.faults = [] → s.htePhase = .idle → s.sched = critPublish v ++ rest →
      stepN 3 s = .next { s with sched := rest, curButtons := v, irqEn := true }) ∧
    (∀ (s : State) (rest : List Move), s.faults = [] → s.htePhase = .idle → s.irqEn = true →
      s.sched = .cmd (0x2000#16 ++ v) [] :: rest →
      step s = .next { s with sched := rest, faults := [.unguardedPublish] })

/-- IRQ_DISABLE clears and IRQ_ENABLE sets `IRQ_EN`, and nothing else: both are idempotent, and a pending byte stays
pending (42; that each is a plain write is the spec's decision D32). -/
def Obligations.IrqGateWrites : Prop :=
  ∀ s : State, s.faults = [] → s.htePhase = .idle →
    exec .irqDisable s = .next { s with irqEn := false } ∧ exec .irqEnable s = .next { s with irqEn := true }

/-- PUBLISH, IRQ_DISABLE and IRQ_ENABLE leave the HTE, the response, both engines, `STEP` and the pending bit as
they are, every byte of both arrays included; PUBLISH leaves `IRQ_EN`, the other two leave `CUR_BUTTONS` (42). -/
def Obligations.GateOpsFrame : Prop :=
  ∀ (s t : State) (i : Instr), i = .irqDisable ∨ i = .irqEnable ∨ (∃ v, i = .publish v) → exec i s = .next t →
    SameHte s t ∧ SameResponse s t ∧ SameEngineA s t ∧ SameEngineB s t ∧ t.stepReg = s.stepReg ∧ SameOwn s t ∧
    ((∃ v, i = .publish v) → t.irqEn = s.irqEn) ∧
    (i = .irqDisable ∨ i = .irqEnable → t.curButtons = s.curButtons)

/-- TRANSACT leaves the responder, engine B, the gate and the buttons as they are, and every byte of `HTE_BUF` and
`RSP_DATA`; when it starts nothing it leaves the HTE and engine A too; when it starts a transaction it leaves
the response (40 section 1). -/
def Obligations.TransactFrame : Prop :=
  ∀ (s t : State) (out : List Byte) (nIn : Byte), s.params.wf → exec (.transact out nIn) s = .next t →
    SameEngineB s t ∧ SameShared s t ∧ t.stepReg = s.stepReg ∧ SameOwn s t ∧ t.hteChan = s.hteChan ∧
    (∀ i, Memory.read t.hteBuf i = Memory.read s.hteBuf i) ∧
    (∀ i, Memory.read t.rspData i = Memory.read s.rspData i) ∧
    (t.htePhase = s.htePhase → SameHte s t ∧ SameEngineA s t) ∧
    (t.htePhase ≠ s.htePhase → SameResponse s t ∧ t.faults = s.faults)

/-! ### The interrupt and the shared registers -/

/-- R197: IRQ_ENABLE enables and IRQ_DISABLE masks; BYTE_B sets the pending bit whatever the mask says; masking
keeps a pending byte; only the HANDLER clears the pending bit, and each HANDLER step clears it, with its two pushes
in the same step (but for a step that faults); no command sets or clears it. -/
def Obligations.PendingBitWriters : Prop :=
  (∀ s t : State, s.htePhase = .idle → exec .irqEnable s = .next t → t.irqEn = true) ∧
  (∀ s t : State, s.htePhase = .idle → exec .irqDisable s = .next t →
    t.irqEn = false ∧ t.irqPend = s.irqPend ∧ t.rxb = s.rxb) ∧
  (∀ (s : State) (b : Byte) (rest : List Move), s.faults = [] → s.sched = .byteB b :: rest →
    s.irqPend = false → s.engbAwait = 0 → ∃ t, step s = .next t ∧ t.irqPend = true ∧ t.irqEn = s.irqEn) ∧
  (∀ s t : State, step s = .next t → s.irqPend = true → t.irqPend = false →
    nextMove s = .irq ∧ ∃ c r, t.txqb = s.txqb ++ [c, r]) ∧
  (∀ s t : State, step s = .next t → nextMove s = .irq → s.irqEn = true → s.irqPend = true → t.faults = [] →
    t.irqPend = false ∧ ∃ c r, t.txqb = s.txqb ++ [c, r]) ∧
  (∀ (s t : State) (w : Word) (payload : List Byte), step s = .next t → nextMove s = .cmd w payload →
    t.irqPend = s.irqPend)

/-- Only PROC's command words write the shared registers. `CUR_BUTTONS` changes only by a PUBLISH of its new value
with the interrupt masked; `IRQ_EN` changes only by IRQ_DISABLE and IRQ_ENABLE. The HANDLER and every other agent
leave both (42 and 10 sections 3 and 4; that an unmasked PUBLISH writes nothing is the spec's decision D21). -/
def Obligations.OnlyProcWritesSharedRegisters : Prop :=
  ∀ s t : State, step s = .next t →
    (t.curButtons ≠ s.curButtons →
      ∃ w payload, nextMove s = .cmd w payload ∧ decode (.command w payload) = .ok (.publish t.curButtons) ∧
        s.irqEn = false) ∧
    (t.irqEn ≠ s.irqEn →
      ∃ w payload, nextMove s = .cmd w payload ∧
        (decode (.command w payload) = .ok .irqDisable ∧ t.irqEn = false ∨
          decode (.command w payload) = .ok .irqEnable ∧ t.irqEn = true))

/-- A critical section keeps the HANDLER out: over any schedule that starts with the interrupt masked and has no
IRQ_ENABLE, no HANDLER step is taken, so `STEP` stays and nothing is pushed to `TXQB` (20 section 4). -/
def Obligations.CriticalSectionExcludesHandler : Prop :=
  ∀ (s t : State) (ms : List Move), s.irqEn = false → Move.cmd 0x40000000#32 [] ∉ ms →
    stepN ms.length { s with sched := ms } = .next t →
    Move.irq ∉ ms ∧ t.irqEn = false ∧ t.stepReg = s.stepReg ∧ ∃ taken, s.txqb = taken ++ t.txqb

/-- While a transaction runs, no step changes `CUR_BUTTONS` or `IRQ_EN` (70 section 3, derived there from R115
and R170). -/
def Obligations.BusyFreezesSharedRegisters : Prop :=
  ∀ s t : State, s.htePhase ≠ .idle → step s = .next t →
    t.curButtons = s.curButtons ∧ t.irqEn = s.irqEn

/-! ### Responder rows -/

/-- R142, RSP_S0_ACCEPT: exactly byte 0x01 at step 0; continue word all ones, reply 0x41, `STEP` 1; its one
exception is the full reply queue. (The layout of the two words and the overflow fault, which the text of R142,
R144 and R146 to R148 takes in, are the spec's decisions D18 and D20.) -/
def Obligations.StepZeroAcceptReplies : Prop :=
  (∀ b : Byte, decode (.key (0#3 ++ b)) = .ok .rspS0Accept ↔ b = 0x01#8) ∧
  ∀ s : State, s.faults = [] →
    (s.txqb.length + 2 ≤ s.params.txqbDepth →
      exec .rspS0Accept s = .next (answered s 0xFFFFFFFF#32 0x00000041#32 1#3)) ∧
    (s.params.txqbDepth < s.txqb.length + 2 → exec .rspS0Accept s = .next { s with faults := [.txqbFull] })

/-- RSP_S0_REJECT: every other byte at step 0; continue word zero, `STEP` 0, and a reply that is no identity byte;
that the reply is 0x00 is the spec's decision D16 (log 20). -/
def Obligations.StepZeroRejectReplies : Prop :=
  ∀ b : Byte, b ≠ 0x01#8 →
    decode (.key (0#3 ++ b)) = .ok (.rspS0Reject b) ∧
    ∀ s : State, s.faults = [] →
      (s.txqb.length + 2 ≤ s.params.txqbDepth →
        exec (.rspS0Reject b) s = .next (answered s 0x00000000#32 0x00000000#32 0#3)) ∧
      (s.params.txqbDepth < s.txqb.length + 2 → exec (.rspS0Reject b) s = .next { s with faults := [.txqbFull] })

/-- R144, RSP_S1_ACCEPT: exactly byte 0x42 at step 1; continue word all ones, reply 0x5A, `STEP` 2. -/
def Obligations.StepOneAcceptReplies : Prop :=
  (∀ b : Byte, decode (.key (1#3 ++ b)) = .ok .rspS1Accept ↔ b = 0x42#8) ∧
  ∀ s : State, s.faults = [] →
    (s.txqb.length + 2 ≤ s.params.txqbDepth →
      exec .rspS1Accept s = .next (answered s 0xFFFFFFFF#32 0x0000005A#32 2#3)) ∧
    (s.params.txqbDepth < s.txqb.length + 2 → exec .rspS1Accept s = .next { s with faults := [.txqbFull] })

/-- RSP_S1_REJECT: every other byte at step 1, 0x01 included; continue word zero, `STEP` 0; that the reply is 0x00
is the spec's decision D16 (log 20). -/
def Obligations.StepOneRejectReplies : Prop :=
  ∀ b : Byte, b ≠ 0x42#8 →
    decode (.key (1#3 ++ b)) = .ok (.rspS1Reject b) ∧
    ∀ s : State, s.faults = [] →
      (s.txqb.length + 2 ≤ s.params.txqbDepth →
        exec (.rspS1Reject b) s = .next (answered s 0x00000000#32 0x00000000#32 0#3)) ∧
      (s.params.txqbDepth < s.txqb.length + 2 → exec (.rspS1Reject b) s = .next { s with faults := [.txqbFull] })

/-- R146 and R147, RSP_S2 and RSP_S3: any byte; the low, then the high byte of `CUR_BUTTONS` as it is at that
step; continue word all ones; `STEP` 3, then 4. -/
def Obligations.ButtonStepsReply : Prop :=
  ∀ b : Byte,
    decode (.key (2#3 ++ b)) = .ok (.rspS2 b) ∧ decode (.key (3#3 ++ b)) = .ok (.rspS3 b) ∧
    ∀ s : State, s.faults = [] →
      (s.txqb.length + 2 ≤ s.params.txqbDepth →
        exec (.rspS2 b) s = .next (answered s 0xFFFFFFFF#32 (BitVec.ofNat 32 (s.curButtons.toNat % 256)) 3#3) ∧
        exec (.rspS3 b) s = .next (answered s 0xFFFFFFFF#32 (BitVec.ofNat 32 (s.curButtons.toNat / 256)) 4#3)) ∧
      (s.params.txqbDepth < s.txqb.length + 2 →
        exec (.rspS2 b) s = .next { s with faults := [.txqbFull] } ∧
        exec (.rspS3 b) s = .next { s with faults := [.txqbFull] })

/-- R148, RSP_S4: any byte; continue word zero, reply 0, `STEP` 0. -/
def Obligations.TerminalStepReplies : Prop :=
  ∀ b : Byte,
    decode (.key (4#3 ++ b)) = .ok (.rspS4 b) ∧
    ∀ s : State, s.faults = [] →
      (s.txqb.length + 2 ≤ s.params.txqbDepth →
        exec (.rspS4 b) s = .next (answered s 0x00000000#32 0x00000000#32 0#3)) ∧
      (s.params.txqbDepth < s.txqb.length + 2 → exec (.rspS4 b) s = .next { s with faults := [.txqbFull] })

/-- RSP_ILLEGAL_STEP5 and RSP_ILLEGAL_STEP67: any byte at steps 5, 6 and 7 resynchronises to step 0 (the spec's
decisions D16 and D17). -/
def Obligations.IllegalStepsResynchronise : Prop :=
  ∀ b : Byte,
    decode (.key (5#3 ++ b)) = .ok (.rspIllegalStep5 b) ∧
    decode (.key (6#3 ++ b)) = .ok (.rspIllegalStep67 0#1 b) ∧
    decode (.key (7#3 ++ b)) = .ok (.rspIllegalStep67 1#1 b) ∧
    ∀ (s : State) (low : BitVec 1), s.faults = [] →
      (s.txqb.length + 2 ≤ s.params.txqbDepth →
        exec (.rspIllegalStep5 b) s = .next (answered s 0x00000000#32 0x00000000#32 0#3) ∧
        exec (.rspIllegalStep67 low b) s = .next (answered s 0x00000000#32 0x00000000#32 0#3)) ∧
      (s.params.txqbDepth < s.txqb.length + 2 →
        exec (.rspIllegalStep5 b) s = .next { s with faults := [.txqbFull] } ∧
        exec (.rspIllegalStep67 low b) s = .next { s with faults := [.txqbFull] })

/-- R200: a row writes only `STEP`, `TXQB`, `ENGB_AWAIT` and `IRQ_PEND`; on the full reply queue it writes only
`FAULTS`. The HTE, the response, engine A, `RXB`, `CUR_BUTTONS` and `IRQ_EN` stay, every byte of both arrays
included. Taking the interrupt is such a row in one step: it saves nothing, and `IRQ_EN` stays 1. -/
def Obligations.ResponderRowsFrame : Prop :=
  (∀ (s t : State) (i : Instr), i.isHostOp = false → exec i s = .next t →
    SameHte s t ∧ SameResponse s t ∧ SameEngineA s t ∧ SameShared s t ∧ SameOwn s t ∧ t.rxb = s.rxb ∧
    (t.faults = s.faults ∨ (SameEngineB s t ∧ t.stepReg = s.stepReg))) ∧
  (∀ (s t : State) (rest : List Move), s.sched = .irq :: rest → step s = .next t →
    SameHte s t ∧ SameResponse s t ∧ SameEngineA s t ∧ t.curButtons = s.curButtons ∧ t.rxb = s.rxb ∧
    s.irqEn = true ∧ t.irqEn = true ∧ t.sched = rest)

/-- With fewer than two free slots in `TXQB` the HANDLER step faults whichever row it is, and pushes nothing (41
section 3, 60 section 3; the spec's decision D20). -/
def Obligations.FullReplyQueueFaults : Prop :=
  ∀ (s : State) (rest : List Move), s.faults = [] → s.irqEn = true → s.irqPend = true → s.sched = .irq :: rest →
    s.params.txqbDepth < s.txqb.length + 2 →
    step s = .next { s with sched := rest, faults := [.txqbFull] }

/-- The decoder, the dispatch and the rows together are the step table of the source's §4.2 (95_test_vectors.md
L1-8, with D16 and D17 for the rejected bytes): a HANDLER step with room in `TXQB` pushes the table's continue
word and reply, clears the pending bit and the stall, moves `STEP`, and changes nothing else. -/
def Obligations.HandlerFollowsStepTable : Prop :=
  ∀ (s : State) (rest : List Move), s.faults = [] → s.irqEn = true → s.irqPend = true → s.sched = .irq :: rest →
    s.txqb.length + 2 ≤ s.params.txqbDepth →
    step s = .next
      (answered { s with sched := rest }
        (if (stepTable s.stepReg.toNat s.rxb s.curButtons).1 then 0xFFFFFFFF#32 else 0x00000000#32)
        (BitVec.ofNat 32 (stepTable s.stepReg.toNat s.rxb s.curButtons).2.1.toNat)
        (stepTable s.stepReg.toNat s.rxb s.curButtons).2.2)

/-- Self-synchronisation: a row pushes one continue word, all ones or zero, and it is zero exactly when `STEP`
becomes 0 (41 section 3, derived there from the rows). -/
def Obligations.ContinueFalseExactlyAtStepZero : Prop :=
  ∀ (s t : State) (i : Instr), i.isHostOp = false → exec i s = .next t → t.faults = s.faults → s.faults = [] →
    ∃ c r, t.txqb = s.txqb ++ [c, r] ∧ (c = 0x00000000#32 ∨ c = 0xFFFFFFFF#32) ∧
      (c = 0x00000000#32 ↔ t.stepReg = 0#3)

/-- R153: what a HANDLER step pushes and its next `STEP` depend on `STEP` and `RXB` alone, and at steps 2 and 3 on
`CUR_BUTTONS`; nothing else of the state matters, `TXQB`'s contents included. -/
def Obligations.HandlerIsPure : Prop :=
  ∀ (s₁ s₂ t₁ t₂ : State) (rest₁ rest₂ : List Move),
    s₁.sched = .irq :: rest₁ → s₂.sched = .irq :: rest₂ → step s₁ = .next t₁ → step s₂ = .next t₂ →
    t₁.faults = [] → t₂.faults = [] →
    s₁.stepReg = s₂.stepReg → s₁.rxb = s₂.rxb →
    (s₁.stepReg = 2#3 ∨ s₁.stepReg = 3#3 → s₁.curButtons = s₂.curButtons) →
    ∃ c r, t₁.txqb = s₁.txqb ++ [c, r] ∧ t₂.txqb = s₂.txqb ++ [c, r] ∧ t₁.stepReg = t₂.stepReg

/-- One invocation per byte: over any schedule that runs without a fault, the bytes received and the HANDLER steps
taken are equally many, but for a byte pending before and one pending after (41 section 3, derived there). -/
def Obligations.OneHandlerStepPerByte : Prop :=
  ∀ (s t : State) (ms : List Move), stepN ms.length { s with sched := ms } = .next t → t.faults = [] →
    s.irqPend.toNat + ms.countP isByteB = ms.count .irq + t.irqPend.toNat

/-! ### Reply sequences -/

/-- A complete reply sequence: the bytes 0x01, 0x42 and any three more get the identity, the buttons and the
terminal 0, low byte first, and the responder is back at step 0 with everything else as before (41 section 3,
derived there; C1 of 90_conflicts.md gives five bytes). Engine B takes the two words after each byte. -/
def Obligations.CompleteReplySequence : Prop :=
  ∀ (s : State) (x y z : Byte) (rest : List Move),
    s.faults = [] → s.irqEn = true → s.irqPend = false → s.engbAwait = 0 → s.stepReg = 0#3 → s.txqb = [] →
    2 ≤ s.params.txqbDepth → s.sched = serveBytes [0x01#8, 0x42#8, x, y, z] ++ rest →
    ∃ t₁ t₂ t₃ t₄ t₅,
      stepN 2 s = .next t₁ ∧ t₁.txqb = [0xFFFFFFFF#32, 0x00000041#32] ∧ t₁.stepReg = 1#3 ∧
      stepN 4 t₁ = .next t₂ ∧ t₂.txqb = [0xFFFFFFFF#32, 0x0000005A#32] ∧ t₂.stepReg = 2#3 ∧
      stepN 4 t₂ = .next t₃ ∧
        t₃.txqb = [0xFFFFFFFF#32, BitVec.ofNat 32 (s.curButtons.toNat % 256)] ∧ t₃.stepReg = 3#3 ∧
      stepN 4 t₃ = .next t₄ ∧
        t₄.txqb = [0xFFFFFFFF#32, BitVec.ofNat 32 (s.curButtons.toNat / 256)] ∧ t₄.stepReg = 4#3 ∧
      stepN 4 t₄ = .next t₅ ∧ t₅.txqb = [0x00000000#32, 0x00000000#32] ∧ t₅.stepReg = 0#3 ∧
      stepN 2 t₅ = .next { s with sched := rest, rxb := z }

/-- An aborted sequence spoils the next attempt: with `STEP` at 1 the first 0x01 is rejected; with `STEP` at 2, 3 or
4 the first `5 - STEP` bytes, whatever they are, are consumed; only then is the responder at step 0 again (41
section 3, derived there; C7 of 90_conflicts.md; that the reply to the byte rejected at step 1 is 0x00 is the spec's
decision D16, log 20). -/
def Obligations.AbortSpoilsNextAttempt : Prop :=
  ∀ (s : State) (bs : List Byte) (rest : List Move),
    s.faults = [] → s.irqEn = true → s.irqPend = false → s.engbAwait = 0 → s.txqb = [] →
    2 ≤ s.params.txqbDepth → s.sched = serveBytes bs ++ rest →
    (s.stepReg = 1#3 → bs = [0x01#8] →
      ∃ t, stepN 2 s = .next t ∧ t.txqb = [0x00000000#32, 0x00000000#32] ∧ t.stepReg = 0#3) ∧
    (2 ≤ s.stepReg.toNat → s.stepReg.toNat ≤ 4 → bs.length < 5 - s.stepReg.toNat →
      ∃ t, stepN (4 * bs.length) s = .next t ∧ t.stepReg.toNat = s.stepReg.toNat + bs.length) ∧
    (2 ≤ s.stepReg.toNat → s.stepReg.toNat ≤ 4 → bs.length = 5 - s.stepReg.toNat →
      ∃ t, stepN (4 * bs.length) s = .next t ∧ t.stepReg = 0#3 ∧ t.sched = rest)

/-- A published value is the one bus B reads: after CRIT_PUBLISH v at step 2 with no publish after it, the replies
at steps 2 and 3 are the low and the high byte of v (20 section 4, derived there). -/
def Obligations.PublishedValueIsRead : Prop :=
  ∀ (s : State) (v : Half) (x y : Byte) (rest : List Move),
    s.faults = [] → s.htePhase = .idle → s.irqPend = false → s.engbAwait = 0 → s.stepReg = 2#3 → s.txqb = [] →
    2 ≤ s.params.txqbDepth → s.sched = critPublish v ++ serveBytes [x, y] ++ rest →
    ∃ t₁ t₂,
      stepN 5 s = .next t₁ ∧ t₁.txqb = [0xFFFFFFFF#32, BitVec.ofNat 32 (v.toNat % 256)] ∧
      stepN 4 t₁ = .next t₂ ∧ t₂.txqb = [0xFFFFFFFF#32, BitVec.ofNat 32 (v.toNat / 256)]

/-- The torn pair is admitted: a correctly guarded publish between the two button bytes gives the master the low
byte of the old value and the high byte of the new one, with no fault (20 section 4, 70 section 3, derived
there). -/
def Obligations.TornButtonPairAdmitted : Prop :=
  ∀ (s : State) (v : Half) (x y : Byte) (rest : List Move),
    s.faults = [] → s.irqEn = true → s.htePhase = .idle → s.irqPend = false → s.engbAwait = 0 → s.stepReg = 2#3 →
    s.txqb = [] → 2 ≤ s.params.txqbDepth →
    s.sched = serveBytes [x] ++ critPublish v ++ serveBytes [y] ++ rest →
    ∃ t₁ t₂,
      stepN 2 s = .next t₁ ∧ t₁.txqb = [0xFFFFFFFF#32, BitVec.ofNat 32 (s.curButtons.toNat % 256)] ∧
      stepN 7 t₁ = .next t₂ ∧ t₂.txqb = [0xFFFFFFFF#32, BitVec.ofNat 32 (v.toNat / 256)] ∧ t₂.faults = []

/-! ### Events -/

/-- BYTE_B latches the byte, sets the pending bit and stalls engine B, whatever `IRQ_EN` is (41 section 3; the
spec's decision D31). -/
def Obligations.ByteBLatchesByte : Prop :=
  ∀ (s : State) (b : Byte) (rest : List Move), s.faults = [] → s.sched = .byteB b :: rest →
    s.irqPend = false → s.engbAwait = 0 →
    step s = .next { s with sched := rest, rxb := b, irqPend := true, engbAwait := 2 }

/-- Each engine takes its oldest word (60 section 4; FIFO order is the spec's decision D26). -/
def Obligations.EnginesTakeOldestWord : Prop :=
  ∀ (s : State) (w : Word) (q : List Word) (rest : List Move), s.faults = [] →
    (s.sched = .takeA :: rest → s.engaRun = true → s.txqa = w :: q →
      step s = .next { s with sched := rest, txqa := q }) ∧
    (s.sched = .takeB :: rest → s.txqb = w :: q → step s = .next { s with sched := rest, txqb := q })

/-- A tick in IDLE does nothing to the core; a tick of the settle wait before its last only counts (40 section 2;
the spec's decision D13). -/
def Obligations.TicksCount : Prop :=
  ∀ (s : State) (rest : List Move), s.faults = [] → s.sched = .tick :: rest →
    (s.htePhase = .idle → step s = .next { s with sched := rest }) ∧
    (s.htePhase = .settle → s.hteTcnt + 1 < s.hteSettle →
      step s = .next { s with sched := rest, hteTcnt := s.hteTcnt + 1 }) ∧
    (s.htePhase = .recv → s.hteTcnt + 1 < 64 →
      step s = .next { s with sched := rest, hteTcnt := s.hteTcnt + 1 })

/-- An RX word during the settle wait is only queued (40 sections 1 and 2; the spec's decisions D12 and D26). -/
def Obligations.RxWordsQueueDuringSettle : Prop :=
  ∀ (s : State) (w : Word) (rest : List Move), s.faults = [] → s.sched = .rxa w :: rest →
    s.engaRun = true → s.htePhase = .settle → s.rxqa.length < s.params.rxqaDepth →
    step s = .next { s with sched := rest, rxqa := s.rxqa ++ [w] }

/-- The tick that ends the settle wait takes the queued RX words in order, at most `HTE_NIN` of them: with too few
the HTE waits for the next byte with a fresh timeout; with enough (`HTE_NIN = 0` included) the transaction
completes OK with exactly the first `HTE_NIN` bytes, and a surplus stays in `RXQA` unread (40 sections 1 to 4;
the spec's decisions D13 and D14). -/
def Obligations.SettleEndDrainsQueue : Prop :=
  ∀ (s : State) (rest : List Move), s.faults = [] → s.sched = .tick :: rest → s.htePhase = .settle →
    s.hteSettle ≤ s.hteTcnt + 1 → s.hteIdx = 0 → Memory.wf s.hteBuf = true → Memory.wf s.rspData = true →
    (s.rxqa.length < s.hteNIn →
      ∃ t, step s = .next t ∧ t.htePhase = .recv ∧ t.hteTcnt = 0 ∧ t.hteIdx = s.rxqa.length ∧ t.rxqa = [] ∧
        bytesBelow t.hteIdx t.hteBuf = s.rxqa.map (fun w => w.extractLsb' 24 8) ∧
        t.engaRun = s.engaRun ∧ SameResponse s t) ∧
    (s.hteNIn ≤ s.rxqa.length →
      ∃ t, step s = .next t ∧ t.htePhase = .idle ∧ t.engaRun = false ∧ t.rxqa = s.rxqa.drop s.hteNIn ∧
        response t = (.ok, (s.rxqa.take s.hteNIn).map (fun w => w.extractLsb' 24 8)))

/-- In RECV an RX word that is not the last is accepted at once: its byte goes to `HTE_BUF[HTE_IDX]`, the next byte
gets a fresh timeout, and nothing else changes (40 sections 1 and 2; the spec's decision D14). -/
def Obligations.ReceiveAcceptsByte : Prop :=
  ∀ (s : State) (w : Word) (rest : List Move), s.faults = [] → s.sched = .rxa w :: rest →
    s.engaRun = true → s.htePhase = .recv → s.rxqa = [] → 1 ≤ s.params.rxqaDepth →
    s.hteIdx + 1 < s.hteNIn → Memory.wf s.hteBuf = true →
    ∃ buf, step s = .next { s with sched := rest, hteBuf := buf, hteIdx := s.hteIdx + 1, hteTcnt := 0 } ∧
      ∀ i, Memory.read buf i = if i = s.hteIdx then w.extractLsb' 24 8 else Memory.read s.hteBuf i

/-- The last expected byte completes the transaction OK: PROC reads exactly the `HTE_NIN` bytes in arrival order,
engine A is stopped and the phase is IDLE. A transaction that ends OK, in whatever step, has all its bytes, and no
step makes the status OK but one that ends a transaction (40 sections 1 to 3; that the push of the last word is
itself the step that completes is the spec's decision D14). -/
def Obligations.LastByteCompletesOk : Prop :=
  (∀ (s : State) (w : Word) (rest : List Move), s.faults = [] → s.sched = .rxa w :: rest →
    s.engaRun = true → s.htePhase = .recv → s.rxqa = [] → 1 ≤ s.params.rxqaDepth →
    s.hteIdx + 1 = s.hteNIn → Memory.wf s.hteBuf = true → Memory.wf s.rspData = true →
    ∃ t, step s = .next t ∧ t.htePhase = .idle ∧ t.engaRun = false ∧ t.rspStatus = .ok ∧ t.rspLen = s.hteNIn ∧
      response t = (.ok, bytesBelow s.hteIdx s.hteBuf ++ [w.extractLsb' 24 8])) ∧
  (∀ s t : State, step s = .next t → s.htePhase ≠ .idle → t.htePhase = .idle → t.rspStatus = .ok →
    Memory.wf s.rspData = true →
    t.hteIdx = t.hteNIn ∧ t.rspLen = t.hteNIn ∧ t.engaRun = false ∧
      response t = (.ok, bytesBelow t.hteNIn t.hteBuf)) ∧
  (∀ s t : State, step s = .next t → s.rspStatus ≠ .ok → t.rspStatus = .ok →
    s.htePhase ≠ .idle ∧ t.htePhase = .idle)

/-- The 64th tick of a RECV wait with no word ends the transaction in TIMEOUT: `RSP_LEN` 0 and no byte readable,
engine A stopped, phase IDLE, `HTE_TCNT` reset to 0, nothing else; and no other step makes the status TIMEOUT (40
sections 2 and 3; that the 64th tick is the boundary is the spec's decision D13). That `HTE_BUF`, and `RSP_DATA` above
`RSP_LEN`, stay as they were is the model's choice (log 23, log 9), and that `HTE_TCNT` is reset is its
reading of R12 beside R112 (log 25). -/
def Obligations.ReceiveTickTimesOut : Prop :=
  (∀ (s : State) (rest : List Move), s.faults = [] → s.sched = .tick :: rest → s.htePhase = .recv →
    64 ≤ s.hteTcnt + 1 →
    ∃ t, step s = .next t ∧ response t = (.timeout, []) ∧
      t = { s with
        sched := rest, hteTcnt := 0, rspStatus := .timeout, rspLen := 0, engaRun := false,
        htePhase := .idle }) ∧
  (∀ s t : State, step s = .next t → s.rspStatus ≠ .timeout → t.rspStatus = .timeout →
    nextMove s = .tick ∧ s.htePhase = .recv ∧ 64 ≤ s.hteTcnt + 1)

/-- Nothing but a TRANSACT of PROC leaves IDLE; the HTE starts no transaction by itself and retries none: the step
that times out, the 64th tick of a wait, ends the transaction (40 sections 2 and 3; that boundary is the spec's
decision D13). -/
def Obligations.OnlyTransactStartsTransaction : Prop :=
  (∀ s t : State, step s = .next t → s.htePhase = .idle → t.htePhase ≠ .idle →
    ∃ w payload nIn, nextMove s = .cmd w payload ∧ decode (.command w payload) = .ok (.transact payload nIn)) ∧
  (∀ (s : State) (rest : List Move), s.faults = [] → s.sched = .tick :: rest → s.htePhase = .recv →
    64 ≤ s.hteTcnt + 1 → ∃ t, step s = .next t ∧ t.rspStatus = .timeout ∧ t.htePhase = .idle)

/-- An engine-A RX word carries the byte in its top 8 bits (30 section 3), and its low 24 bits are ignored (the
spec's decision D10). Accepted in RECV, a word puts that byte into `HTE_BUF[HTE_IDX]`, and two words with the same
top byte have the same effect; at the end of the settle wait two queues with the same top bytes give states that
differ in the words left in `RXQA` alone, and those have the same top bytes. -/
def Obligations.RxLowBitsIgnored : Prop :=
  (∀ (s : State) (w : Word) (rest : List Move), s.faults = [] → s.htePhase = .recv → s.rxqa = [] →
    s.hteIdx < s.hteNIn → s.engaRun = true → 1 ≤ s.params.rxqaDepth → Memory.wf s.hteBuf = true →
    ∃ t, step { s with sched := .rxa w :: rest } = .next t ∧
      (Memory.read t.hteBuf s.hteIdx).toNat = w.toNat / 2 ^ 24) ∧
  (∀ (s : State) (w w' : Word) (rest : List Move), s.htePhase = .recv → s.rxqa = [] → s.hteIdx < s.hteNIn →
    s.engaRun = true → 1 ≤ s.params.rxqaDepth → w.toNat / 2 ^ 24 = w'.toNat / 2 ^ 24 →
    step { s with sched := .rxa w :: rest } = step { s with sched := .rxa w' :: rest }) ∧
  (∀ (s : State) (q q' : List Word) (rest : List Move), s.faults = [] → s.htePhase = .settle →
    s.hteSettle ≤ s.hteTcnt + 1 → q.map (fun w => w.toNat / 2 ^ 24) = q'.map (fun w => w.toNat / 2 ^ 24) →
    ∃ t t', step { s with sched := .tick :: rest, rxqa := q } = .next t ∧
      step { s with sched := .tick :: rest, rxqa := q' } = .next t' ∧ t' = { t with rxqa := t'.rxqa } ∧
      t.rxqa.map (fun w => w.toNat / 2 ^ 24) = t'.rxqa.map (fun w => w.toNat / 2 ^ 24))

/-- The two halves share nothing: a move of the HTE's side leaves `STEP`, engine B's interface, the buttons and the
gate; a move of bus B's side leaves the HTE, the response and engine A's interface (60 section 3 (e)). -/
def Obligations.SidesShareNothing : Prop :=
  ∀ (s t : State) (m : Move), takeMove m s = .next t →
    (isHteMove m = true → t.stepReg = s.stepReg ∧ SameEngineB s t ∧ SameShared s t ∧ SameOwn s t) ∧
    (isResponderMove m = true → SameHte s t ∧ SameResponse s t ∧ SameEngineA s t ∧ SameShared s t ∧ SameOwn s t)

/-! ### Laws of transactions -/

/-- A move of the HTE's side and a move of bus B's side give the same state in either order (60 section 3 (e); the
spec's decision D19). This is a law of `takeMove`, which does not look at `FAULTS` (log 15): where the HANDLER's move
is the one that overflows `TXQB`, `step` gives the other move no step after it. -/
def Obligations.HteAndResponderCommute : Prop :=
  ∀ (s t₁ t₂ : State) (m m' : Move), s.faults = [] → isHteMove m = true → isResponderMove m' = true →
    takeMove m s = .next t₁ → takeMove m' s = .next t₂ →
    ∃ u, takeMove m' t₁ = .next u ∧ takeMove m t₂ = .next u

/-- Isolation: from two idle cores, however they differ, one TRANSACT gives states that agree on all its result can
depend on; every TICK, RXA_PUSH and ENGA_TAKE keeps the agreement, and bus B's moves do not touch it; so the
results PROC reads are equal (40 section 4, derived there). This is a law of `exec` and `takeMove`, which do not look
at `FAULTS` (log 15): the two cores may be faulted ones, to which `step` gives no step. -/
def Obligations.TransactionIsolation : Prop :=
  (∀ (s t : State) (out : List Byte) (nIn : Byte),
    s.htePhase = .idle → t.htePhase = .idle → s.params = t.params → s.params.wf →
    1 ≤ out.length → out.length ≤ s.params.maxOut → nIn.toNat ≤ s.params.maxIn →
    Memory.wf s.hteBuf = true → Memory.wf s.rspData = true →
    Memory.wf t.hteBuf = true → Memory.wf t.rspData = true →
    ∃ s' t', exec (.transact out nIn) s = .next s' ∧ exec (.transact out nIn) t = .next t' ∧ HteAgree s' t') ∧
  (∀ (s t s' : State) (m : Move), HteAgree s t → s.htePhase ≠ .idle → isHteMove m = true →
    takeMove m s = .next s' → ∃ t', takeMove m t = .next t' ∧ HteAgree s' t') ∧
  (∀ (s t s' : State) (m : Move), HteAgree s t → isResponderMove m = true → takeMove m s = .next s' →
    HteAgree s' t)

/-- A transaction is over once as many ticks have come as `ticksLeft` allows, whatever else happens while PROC is
blocked (40 section 4, derived there): from an accepted TRANSACT that is `HTE_SETTLE + n_in · 64` ticks. -/
def Obligations.TransactionDurationBounded : Prop :=
  (∀ (s t : State) (out : List Byte) (nIn : Byte), s.params.wf → exec (.transact out nIn) s = .next t →
    s.htePhase = .idle → t.htePhase = .settle →
    ticksLeft t = t.hteSettle + nIn.toNat * 64 ∧ t.hteSettle = 32 * out.length + s.params.settleGuard) ∧
  (∀ (s t : State) (ms : List Move), CoreInv s → s.htePhase ≠ .idle → ProcBlocked ms →
    stepN ms.length { s with sched := ms } = .next t → ticksLeft s ≤ ms.count .tick → t.htePhase = .idle)

/-- A transaction lasts at least its settle wait: while fewer ticks have come than are missing, the HTE is still in
SETTLE, whatever else happens while PROC is blocked (40 section 4, derived there). -/
def Obligations.SettleWaitIsLowerBound : Prop :=
  ∀ (s t : State) (ms : List Move), s.htePhase = .settle → ProcBlocked ms →
    stepN ms.length { s with sched := ms } = .next t → s.hteTcnt + ms.count .tick < s.hteSettle →
    t.htePhase = .settle ∧ t.hteTcnt = s.hteTcnt + ms.count .tick

/-- If ticks keep coming, every transaction ends: on every infinite run with TICK weakly fair, the HTE is idle at
some point (60 section 4, 40 section 4; fairness is a premise, log 16). -/
def Obligations.FairTicksEndTransactions : Prop :=
  ∀ (moves : Nat → Move) (run : Nat → State), IsRun moves run → TicksKeepComing moves → CoreInv (run 0) →
    ∃ n, (run n).htePhase = .idle

/-- If the HANDLER is weakly fair, a pending byte whose interrupt stays enabled is handled: on every infinite run it
stops being pending (60 section 3; fairness is a premise, log 16). -/
def Obligations.FairHandlerServesByte : Prop :=
  ∀ (moves : Nat → Move) (run : Nat → State), IsRun moves run → HandlerFair moves run → (run 0).irqPend = true →
    (∀ n, (run n).irqEn = true) → ∃ n, (run n).irqPend = false

/-! ### Invariants and reset -/

/-- Every step keeps the invariant of the core: R120's laws of the phases, the request, the counters' widths, the
queues' depths, canonical arrays, `STEP` in 0 to 4, pending bit and stall together, all-or-nothing results and
at most one fault (40 section 4 and 10_state.md). -/
def Obligations.StepKeepsCoreInv : Prop :=
  ∀ s t : State, CoreInv s → step s = .next t → CoreInv t

/-- The invariant holds after reset, for every admissible choice of the free parameters (log 6). -/
def Obligations.CoreInvAtReset : Prop := CoreInv State.reset

/-- The reset values the spec states (70 section 1; they are the spec's decisions D5, D22 and D29); the four values
the spec leaves open (log 8) and the model's own fields are not stated. -/
def Obligations.ResetValues : Prop :=
  State.reset.htePhase = .idle ∧ phaseCode State.reset.htePhase = 0#2 ∧ State.reset.hteNOut = 0 ∧
  State.reset.hteNIn = 0 ∧ State.reset.hteIdx = 0 ∧ State.reset.hteTcnt = 0 ∧ State.reset.hteSettle = 0 ∧
  State.reset.rspStatus = .none ∧ statusCode State.reset.rspStatus = 3#2 ∧ State.reset.rspLen = 0 ∧
  State.reset.hteChan = Config.hteChan ∧ State.reset.stepReg = 0#3 ∧ State.reset.ident = 0x5A41#16 ∧
  State.reset.curButtons = 0xFFFF#16 ∧ State.reset.irqEn = false ∧ State.reset.irqPend = false ∧
  State.reset.engaRun = false ∧ State.reset.txqa = [] ∧ State.reset.rxqa = [] ∧ State.reset.txqb = [] ∧
  State.reset.engbAwait = 0 ∧ State.reset.faults = []

/-- No step writes `HTE_CHAN` (10 section 2), nor the parameters, a field of the model's own (log 6); `IDENT` is
0x5A41 in every state, by the model's accessor (10 section 3; log 13). -/
def Obligations.ConstantsNeverWritten : Prop :=
  ∀ s t : State, step s = .next t → t.hteChan = s.hteChan ∧ t.params = s.params ∧ t.ident = 0x5A41#16

/-- The step that raises a fault records one code and changes nothing else of the core (00 section 5, 60 section 2;
the faults are the spec's decision D29). -/
def Obligations.FaultRecordsOnlyItsCode : Prop :=
  ∀ s t : State, step s = .next t → t.faults ≠ [] →
    ∃ c, t = { s with faults := [c], sched := t.sched, freeCtr := t.freeCtr }
end

