-- ==== Sys2Proof/Laws/Decode.lean ====
section
/-! SUPPORT. The masks of R71 and R82 as fields, and what each decoder reads from each pattern. -/

namespace Sys2Proof

/-- Two concatenations of one shape are equal exactly when both parts are. -/
theorem append_eq_append_iff {n m : Nat} (x x' : BitVec n) (y y' : BitVec m) :
    x ++ y = x' ++ y' ↔ x = x' ∧ y = y' := by
  constructor
  · intro e
    exact ⟨by simpa only [BitVec.extractLsb'_append_eq_left] using congrArg (BitVec.extractLsb' m n) e,
      by simpa only [BitVec.extractLsb'_append_eq_right] using congrArg (BitVec.extractLsb' 0 m) e⟩
  · rintro ⟨rfl, rfl⟩; rfl

/-- Masking the upper part of a concatenation and comparing with a value whose lower part is zero. -/
theorem append_and_upper_eq_iff {n m : Nat} (x k h : BitVec n) (y : BitVec m) :
    (x ++ y) &&& (k ++ 0#m) = h ++ 0#m ↔ x &&& k = h := by
  rw [BitVec.and_append, BitVec.and_zero, append_eq_append_iff]
  exact and_iff_left rfl

/-- A word is its upper half and its lower half. -/
theorem word_eq_append (w : Word) : w = w.extractLsb' 16 16 ++ fieldValue w :=
  ((BitVec.extractLsb'_append_extractLsb'_eq_extractLsb' (x := w) (start₁ := 0) (len₁ := 16) (len₂ := 16) rfl).trans
    BitVec.extractLsb'_eq_self).symm

/-- The lower half of a word is NOUT and NIN. -/
theorem value_eq_append (w : Word) : fieldValue w = fieldNOut w ++ fieldNIn w :=
  (BitVec.extractLsb'_append_extractLsb'_eq_extractLsb' (x := w) (start₁ := 0) (len₁ := 8) (len₂ := 8) rfl).symm

/-- A key is its step and its byte (R81). -/
theorem key_eq_append (k : BitVec 11) : k = k.extractLsb' 8 3 ++ keyByte k :=
  ((BitVec.extractLsb'_append_extractLsb'_eq_extractLsb' (x := k) (start₁ := 0) (len₁ := 8) (len₂ := 3) rfl).trans
    BitVec.extractLsb'_eq_self).symm

/-- R71's mask of TRANSACT and PUBLISH compares the upper half of a word. -/
theorem and_upper_eq_iff (w : Word) (h : Half) :
    w &&& 0xFFFF0000#32 = h ++ 0x0000#16 ↔ w.extractLsb' 16 16 = h := by
  rw [word_eq_append w]
  refine (append_and_upper_eq_iff (m := 16) _ 0xFFFF#16 h (fieldValue w)).trans ?_
  rw [show ∀ x : Half, x &&& 0xFFFF#16 = x from fun x => BitVec.and_allOnes (x := x)]
  exact Iff.of_eq (congrArg (· = h) (BitVec.extractLsb'_append_eq_left (w' := 16)).symm)

theorem and_transact_iff (w : Word) :
    w &&& 0xFFFF0000#32 = 0x10000000#32 ↔ w.extractLsb' 16 16 = 0x1000#16 :=
  and_upper_eq_iff w 0x1000#16

theorem and_publish_iff (w : Word) :
    w &&& 0xFFFF0000#32 = 0x20000000#32 ↔ w.extractLsb' 16 16 = 0x2000#16 :=
  and_upper_eq_iff w 0x2000#16

theorem and_ones (w : Word) : w &&& 0xFFFFFFFF#32 = w := BitVec.and_allOnes (x := w)

/-- The upper half and the fields of a word written as its three parts. -/
theorem fields_append (h : Half) (n i : Byte) :
    (h ++ n ++ i : Word).extractLsb' 16 16 = h ∧ fieldNOut (h ++ n ++ i : Word) = n ∧
      fieldNIn (h ++ n ++ i : Word) = i := by
  have e : (h ++ n ++ i : Word) = h ++ (n ++ i) := BitVec.append_assoc
  have ei : fieldNIn (h ++ n ++ i : Word) = i := BitVec.extractLsb'_append_eq_right (w' := 8)
  have eh : (h ++ (n ++ i) : Word).extractLsb' 16 16 = h := BitVec.extractLsb'_append_eq_left (w' := 16)
  have ev : fieldValue (h ++ (n ++ i) : Word) = n ++ i := BitVec.extractLsb'_append_eq_right (w' := 16)
  refine ⟨by rw [e]; exact eh, ?_, ei⟩
  rw [e]
  rw [value_eq_append] at ev
  exact ((append_eq_append_iff _ _ _ _).mp ev).1

theorem value_append (h v : Half) :
    (h ++ v : Word).extractLsb' 16 16 = h ∧ fieldValue (h ++ v : Word) = v :=
  ⟨BitVec.extractLsb'_append_eq_left (w' := 16), BitVec.extractLsb'_append_eq_right (w' := 16)⟩

theorem keyByte_append (st : BitVec 3) (b : Byte) : keyByte (st ++ b) = b :=
  BitVec.extractLsb'_append_eq_right (w' := 8)

theorem keyStep_append (st : BitVec 3) (b : Byte) : (st ++ b : BitVec 11).extractLsb' 8 3 = st :=
  BitVec.extractLsb'_append_eq_left (w' := 8)

theorem keyLow_append (st : BitVec 3) (b : Byte) :
    (st ++ b : BitVec 11).extractLsb' 8 1 = st.extractLsb' 0 1 :=
  BitVec.extractLsb'_append_eq_ite (xhi := st) (xlo := b)

/-- The eight values of STEP. -/
theorem step_cases8 : ∀ st : BitVec 3, st = 0#3 ∨ st = 1#3 ∨ st = 2#3 ∨ st = 3#3 ∨ st = 4#3 ∨ st = 5#3 ∨
    st = 6#3 ∨ st = 7#3 := by decide

/-- What the responder decoder reads, by step and byte: the table of R82 with the masks resolved. -/
theorem decodeKey_append (st : BitVec 3) (b : Byte) :
    decodeKey (st ++ b) =
      if st = 0#3 then (if b = 0x01#8 then .ok .rspS0Accept else .ok (.rspS0Reject b))
      else if st = 1#3 then (if b = 0x42#8 then .ok .rspS1Accept else .ok (.rspS1Reject b))
      else if st = 2#3 then .ok (.rspS2 b)
      else if st = 3#3 then .ok (.rspS3 b)
      else if st = 4#3 then .ok (.rspS4 b)
      else if st = 5#3 then .ok (.rspIllegalStep5 b)
      else .ok (.rspIllegalStep67 (st.extractLsb' 0 1) b) := by
  have ones : ∀ x : BitVec 3, x &&& 0b111#3 = x := fun x => BitVec.and_allOnes (x := x)
  have full : ∀ (x : BitVec 3) (c : Byte), (st ++ b) &&& 0x7FF#11 = x ++ c ↔ st = x ∧ b = c := fun x c => by
    rw [show (st ++ b) &&& 0x7FF#11 = st ++ b from BitVec.and_allOnes (x := st ++ b), append_eq_append_iff]
  have hi : ∀ x : BitVec 3, (st ++ b) &&& 0x700#11 = x ++ 0x00#8 ↔ st = x := fun x => by
    refine (append_and_upper_eq_iff (m := 8) st 0b111#3 x b).trans ?_
    rw [ones]
  have top : (st ++ b) &&& 0x600#11 = 0x600#11 ↔ st &&& 0b110#3 = 0b110#3 :=
    append_and_upper_eq_iff (m := 8) st 0b110#3 0b110#3 b
  unfold decodeKey
  rw [keyByte_append, keyLow_append]
  have f1 : (st ++ b) &&& 0x7FF#11 = 0x001#11 ↔ st = 0 ∧ b = 0x01#8 := full 0 0x01#8
  have f2 : (st ++ b) &&& 0x7FF#11 = 0x142#11 ↔ st = 1 ∧ b = 0x42#8 := full 1 0x42#8
  have h0 : (st ++ b) &&& 0x700#11 = 0x000#11 ↔ st = 0 := hi 0
  have h1 : (st ++ b) &&& 0x700#11 = 0x100#11 ↔ st = 1 := hi 1
  have h2 : (st ++ b) &&& 0x700#11 = 0x200#11 ↔ st = 2 := hi 2
  have h3 : (st ++ b) &&& 0x700#11 = 0x300#11 ↔ st = 3 := hi 3
  have h4 : (st ++ b) &&& 0x700#11 = 0x400#11 ↔ st = 4 := hi 4
  have h5 : (st ++ b) &&& 0x700#11 = 0x500#11 ↔ st = 5 := hi 5
  simp only [top, f1, f2, h0, h1, h2, h3, h4, h5]
  rcases step_cases8 st with rfl | rfl | rfl | rfl | rfl | rfl | rfl | rfl <;> by_cases c1 : b = 0x01#8 <;>
    by_cases c2 : b = 0x42#8 <;> simp [c1, c2]

/-- The command decoder by the upper half of the word. -/
theorem decodeCommand_upper (w : Word) (p : List Byte) :
    decodeCommand w p =
      if w.extractLsb' 16 16 = 0x1000#16 then
        (if p.length = (fieldNOut w).toNat then .ok (.transact p (fieldNIn w)) else .error .payloadLength)
      else if w.extractLsb' 16 16 = 0x2000#16 then withoutPayload p (.publish (fieldValue w))
      else if w = 0x30000000#32 then withoutPayload p .irqDisable
      else if w = 0x40000000#32 then withoutPayload p .irqEnable
      else .error .reserved := by
  simp only [decodeCommand, and_transact_iff, and_publish_iff, and_ones]

end Sys2Proof
end

