-- ==== Sys2Proof/Laws/Memory.lean ====
section
/-! SUPPORT. The laws of the byte arrays: read after write, the canonical form, bounds, and the copy loop. -/

namespace Sys2Proof.Machine

theorem Memory.wfFrom_mono {m : Memory} : ∀ {lo hi : Nat}, lo ≤ hi → Memory.wfFrom hi m = true →
    Memory.wfFrom lo m = true := by
  induction m with
  | nil => intro _ _ _ _; rfl
  | cons c m _ =>
    obtain ⟨j, b⟩ := c
    intro lo hi hle h
    simp only [Memory.wfFrom, Bool.and_eq_true, decide_eq_true_eq] at h ⊢
    exact ⟨⟨Nat.le_trans hle h.1.1, h.1.2⟩, h.2⟩

/-- An index below a canonical list reads as unlisted. -/
theorem Memory.read_below {m : Memory} : ∀ {lo i : Nat}, Memory.wfFrom lo m = true → i < lo →
    Memory.read m i = unlistedByte := by
  induction m with
  | nil => intro _ _ _ _; rfl
  | cons c m ih =>
    obtain ⟨j, b⟩ := c
    intro lo i h hi
    simp only [Memory.wfFrom, Bool.and_eq_true, decide_eq_true_eq] at h
    simp only [Memory.read, show ¬ j = i by omega, if_false]
    exact ih h.2 (by omega)

theorem read_consCell (i j : Nat) (b : Byte) (m : Memory)
    (h : Memory.read m i = unlistedByte) :
    Memory.read (consCell i b m) j = if j = i then b else Memory.read m j := by
  unfold consCell
  by_cases hb : b = unlistedByte
  · by_cases hj : j = i
    · subst hj; simp [hb, h]
    · simp [hb, hj]
  · by_cases hj : j = i
    · subst hj; simp [hb, Memory.read]
    · simp [hb, Memory.read, hj, show ¬ i = j from fun e => hj e.symm]

theorem Memory.read_write_from {m : Memory} (i j : Nat) (b : Byte) : ∀ {lo : Nat}, Memory.wfFrom lo m = true →
    Memory.read (Memory.write m i b) j = if j = i then b else Memory.read m j := by
  induction m with
  | nil =>
    intro lo _
    exact read_consCell i j b [] rfl
  | cons c m ih =>
    obtain ⟨k, d⟩ := c
    intro lo h
    have h' := h
    simp only [Memory.wfFrom, Bool.and_eq_true, decide_eq_true_eq] at h
    simp only [Memory.write]
    split
    · rename_i hik
      refine read_consCell i j b _ ?_
      simp only [Memory.read, show ¬ k = i by omega, if_false]
      exact Memory.read_below h.2 (by omega)
    · split
      · rename_i _ hik
        subst hik
        rw [read_consCell i j b m (Memory.read_below h.2 (by omega))]
        by_cases hj : j = i
        · simp [hj]
        · simp [Memory.read, hj, show ¬ i = j from fun e => hj e.symm]
      · rename_i hlt hne
        simp only [Memory.read]
        by_cases hkj : k = j
        · simp [hkj, show ¬ j = i from fun e => hne (by omega)]
        · simp only [hkj, if_false]
          exact ih h.2

/-- Read after write: the written entry reads the written byte and every other entry reads as before. -/
theorem Memory.read_write {m : Memory} (h : Memory.wf m = true) (i j : Nat) (b : Byte) :
    Memory.read (Memory.write m i b) j = if j = i then b else Memory.read m j :=
  Memory.read_write_from i j b h

theorem wfFrom_consCell {i : Nat} (b : Byte) {m : Memory} {lo : Nat} (hlo : lo ≤ i)
    (h : Memory.wfFrom (i + 1) m = true) : Memory.wfFrom lo (consCell i b m) = true := by
  unfold consCell
  by_cases hb : b = unlistedByte
  · simp only [hb, if_true]; exact Memory.wfFrom_mono (by omega) h
  · simp [hb, Memory.wfFrom, hlo, h]

theorem Memory.wfFrom_write {m : Memory} (i : Nat) (b : Byte) : ∀ {lo : Nat}, lo ≤ i →
    Memory.wfFrom lo m = true → Memory.wfFrom lo (Memory.write m i b) = true := by
  induction m with
  | nil => intro lo hlo _; exact wfFrom_consCell b hlo rfl
  | cons c m ih =>
    obtain ⟨k, d⟩ := c
    intro lo hlo h
    have h' := h
    simp only [Memory.wfFrom, Bool.and_eq_true, decide_eq_true_eq] at h
    simp only [Memory.write]
    split
    · rename_i hik
      refine wfFrom_consCell b hlo ?_
      simp only [Memory.wfFrom, Bool.and_eq_true, decide_eq_true_eq]
      exact ⟨⟨by omega, h.1.2⟩, h.2⟩
    · split
      · rename_i _ hik
        subst hik
        exact wfFrom_consCell b hlo h.2
      · simp only [Memory.wfFrom, Bool.and_eq_true, decide_eq_true_eq]
        exact ⟨⟨h.1.1, h.1.2⟩, ih (by omega) h.2⟩

/-- A write keeps the canonical form. -/
theorem Memory.wf_write {m : Memory} (h : Memory.wf m = true) (i : Nat) (b : Byte) :
    Memory.wf (Memory.write m i b) = true := Memory.wfFrom_write i b (Nat.zero_le i) h

theorem below_consCell {n i : Nat} (b : Byte) {m : Memory} (hi : i < n) (h : Memory.below n m = true) :
    Memory.below n (consCell i b m) = true := by
  unfold consCell
  split
  · exact h
  · simpa [Memory.below, hi] using h

/-- A write below a bound keeps every listed index below it. -/
theorem Memory.below_write {n i : Nat} (b : Byte) (hi : i < n) : ∀ {m : Memory}, Memory.below n m = true →
    Memory.below n (Memory.write m i b) = true := by
  intro m
  induction m with
  | nil => intro h; exact below_consCell b hi h
  | cons c m ih =>
    obtain ⟨k, d⟩ := c
    intro h
    have hk : k < n ∧ Memory.below n m = true := by simpa [Memory.below] using h
    simp only [Memory.write]
    split
    · exact below_consCell b hi h
    · split
      · exact below_consCell b hi hk.2
      · have := ih hk.2
        simpa [Memory.below, hk.1] using this

theorem copyBytes_wf (n : Nat) (src : Memory) {dst : Memory} (h : Memory.wf dst = true) :
    Memory.wf (copyBytes n src dst) = true := by
  induction n with
  | zero => exact h
  | succ n ih => exact Memory.wf_write ih _ _

theorem copyBytes_below {b : Nat} (n : Nat) (hn : n ≤ b) (src : Memory) {dst : Memory}
    (h : Memory.below b dst = true) : Memory.below b (copyBytes n src dst) = true := by
  induction n with
  | zero => exact h
  | succ n ih => exact Memory.below_write _ (by omega) (ih (by omega))

/-- The copy loop: entries below `n` come from the source, the others stay. -/
theorem read_copyBytes (n : Nat) (src : Memory) {dst : Memory} (h : Memory.wf dst = true) (i : Nat) :
    Memory.read (copyBytes n src dst) i = if i < n then Memory.read src i else Memory.read dst i := by
  induction n with
  | zero => simp [copyBytes]
  | succ n ih =>
    simp only [copyBytes]
    rw [Memory.read_write (copyBytes_wf n src h), ih]
    by_cases h1 : i = n
    · subst h1; simp
    · by_cases h2 : i < n
      · simp [h1, h2, show i < n + 1 by omega]
      · simp [h1, h2, show ¬ i < n + 1 by omega]

theorem bytesBelow_congr {n : Nat} {m m' : Memory} (h : ∀ i, i < n → Memory.read m i = Memory.read m' i) :
    bytesBelow n m = bytesBelow n m' := by
  unfold bytesBelow
  exact List.map_congr_left fun i hi => h i (List.mem_range.mp hi)

theorem read_eq_of_bytesBelow {n : Nat} {m m' : Memory} (h : bytesBelow n m = bytesBelow n m') :
    ∀ i, i < n → Memory.read m i = Memory.read m' i := by
  intro i hi
  exact List.map_inj_left.mp h i (List.mem_range.mpr hi)

/-- What PROC reads after the copy is what the source array holds. -/
theorem bytesBelow_copyBytes (n : Nat) (src : Memory) {dst : Memory} (h : Memory.wf dst = true) :
    bytesBelow n (copyBytes n src dst) = bytesBelow n src :=
  bytesBelow_congr fun i hi => by rw [read_copyBytes n src h]; simp [hi]

theorem bytesBelow_succ (n : Nat) (m : Memory) : bytesBelow (n + 1) m = bytesBelow n m ++ [Memory.read m n] := by
  simp [bytesBelow, List.range_succ]

end Sys2Proof.Machine
end

