-- ==== Sys2Proof/Laws/State.lean ====
section
/-! SUPPORT. For each named update of State, what each field holds after it, true by rfl; every field of State is listed. -/

namespace Sys2Proof.Machine

/-! ### addFault -/

@[simp] theorem addFault_htePhase (s : State) (code : FaultCode) : (s.addFault code).htePhase = s.htePhase := rfl
@[simp] theorem addFault_hteNOut (s : State) (code : FaultCode) : (s.addFault code).hteNOut = s.hteNOut := rfl
@[simp] theorem addFault_hteNIn (s : State) (code : FaultCode) : (s.addFault code).hteNIn = s.hteNIn := rfl
@[simp] theorem addFault_hteIdx (s : State) (code : FaultCode) : (s.addFault code).hteIdx = s.hteIdx := rfl
@[simp] theorem addFault_hteTcnt (s : State) (code : FaultCode) : (s.addFault code).hteTcnt = s.hteTcnt := rfl
@[simp] theorem addFault_hteSettle (s : State) (code : FaultCode) : (s.addFault code).hteSettle = s.hteSettle := rfl
@[simp] theorem addFault_hteBuf (s : State) (code : FaultCode) : (s.addFault code).hteBuf = s.hteBuf := rfl
@[simp] theorem addFault_rspStatus (s : State) (code : FaultCode) : (s.addFault code).rspStatus = s.rspStatus := rfl
@[simp] theorem addFault_rspLen (s : State) (code : FaultCode) : (s.addFault code).rspLen = s.rspLen := rfl
@[simp] theorem addFault_rspData (s : State) (code : FaultCode) : (s.addFault code).rspData = s.rspData := rfl
@[simp] theorem addFault_hteChan (s : State) (code : FaultCode) : (s.addFault code).hteChan = s.hteChan := rfl
@[simp] theorem addFault_stepReg (s : State) (code : FaultCode) : (s.addFault code).stepReg = s.stepReg := rfl
@[simp] theorem addFault_curButtons (s : State) (code : FaultCode) : (s.addFault code).curButtons = s.curButtons := rfl
@[simp] theorem addFault_irqEn (s : State) (code : FaultCode) : (s.addFault code).irqEn = s.irqEn := rfl
@[simp] theorem addFault_irqPend (s : State) (code : FaultCode) : (s.addFault code).irqPend = s.irqPend := rfl
@[simp] theorem addFault_engaRun (s : State) (code : FaultCode) : (s.addFault code).engaRun = s.engaRun := rfl
@[simp] theorem addFault_engaCfg (s : State) (code : FaultCode) : (s.addFault code).engaCfg = s.engaCfg := rfl
@[simp] theorem addFault_txqa (s : State) (code : FaultCode) : (s.addFault code).txqa = s.txqa := rfl
@[simp] theorem addFault_rxqa (s : State) (code : FaultCode) : (s.addFault code).rxqa = s.rxqa := rfl
@[simp] theorem addFault_rxb (s : State) (code : FaultCode) : (s.addFault code).rxb = s.rxb := rfl
@[simp] theorem addFault_engbAwait (s : State) (code : FaultCode) : (s.addFault code).engbAwait = s.engbAwait := rfl
@[simp] theorem addFault_txqb (s : State) (code : FaultCode) : (s.addFault code).txqb = s.txqb := rfl
@[simp] theorem addFault_faults (s : State) (code : FaultCode) : (s.addFault code).faults = insertFault code s.faults := rfl
@[simp] theorem addFault_params (s : State) (code : FaultCode) : (s.addFault code).params = s.params := rfl
@[simp] theorem addFault_sched (s : State) (code : FaultCode) : (s.addFault code).sched = s.sched := rfl
@[simp] theorem addFault_freeCtr (s : State) (code : FaultCode) : (s.addFault code).freeCtr = s.freeCtr := rfl

/-! ### reply -/

@[simp] theorem reply_htePhase (s : State) (c : Bool) (r : Byte) (n : BitVec 3) : (s.reply c r n).htePhase = s.htePhase := rfl
@[simp] theorem reply_hteNOut (s : State) (c : Bool) (r : Byte) (n : BitVec 3) : (s.reply c r n).hteNOut = s.hteNOut := rfl
@[simp] theorem reply_hteNIn (s : State) (c : Bool) (r : Byte) (n : BitVec 3) : (s.reply c r n).hteNIn = s.hteNIn := rfl
@[simp] theorem reply_hteIdx (s : State) (c : Bool) (r : Byte) (n : BitVec 3) : (s.reply c r n).hteIdx = s.hteIdx := rfl
@[simp] theorem reply_hteTcnt (s : State) (c : Bool) (r : Byte) (n : BitVec 3) : (s.reply c r n).hteTcnt = s.hteTcnt := rfl
@[simp] theorem reply_hteSettle (s : State) (c : Bool) (r : Byte) (n : BitVec 3) : (s.reply c r n).hteSettle = s.hteSettle := rfl
@[simp] theorem reply_hteBuf (s : State) (c : Bool) (r : Byte) (n : BitVec 3) : (s.reply c r n).hteBuf = s.hteBuf := rfl
@[simp] theorem reply_rspStatus (s : State) (c : Bool) (r : Byte) (n : BitVec 3) : (s.reply c r n).rspStatus = s.rspStatus := rfl
@[simp] theorem reply_rspLen (s : State) (c : Bool) (r : Byte) (n : BitVec 3) : (s.reply c r n).rspLen = s.rspLen := rfl
@[simp] theorem reply_rspData (s : State) (c : Bool) (r : Byte) (n : BitVec 3) : (s.reply c r n).rspData = s.rspData := rfl
@[simp] theorem reply_hteChan (s : State) (c : Bool) (r : Byte) (n : BitVec 3) : (s.reply c r n).hteChan = s.hteChan := rfl
@[simp] theorem reply_stepReg (s : State) (c : Bool) (r : Byte) (n : BitVec 3) : (s.reply c r n).stepReg = n := rfl
@[simp] theorem reply_curButtons (s : State) (c : Bool) (r : Byte) (n : BitVec 3) : (s.reply c r n).curButtons = s.curButtons := rfl
@[simp] theorem reply_irqEn (s : State) (c : Bool) (r : Byte) (n : BitVec 3) : (s.reply c r n).irqEn = s.irqEn := rfl
@[simp] theorem reply_irqPend (s : State) (c : Bool) (r : Byte) (n : BitVec 3) : (s.reply c r n).irqPend = false := rfl
@[simp] theorem reply_engaRun (s : State) (c : Bool) (r : Byte) (n : BitVec 3) : (s.reply c r n).engaRun = s.engaRun := rfl
@[simp] theorem reply_engaCfg (s : State) (c : Bool) (r : Byte) (n : BitVec 3) : (s.reply c r n).engaCfg = s.engaCfg := rfl
@[simp] theorem reply_txqa (s : State) (c : Bool) (r : Byte) (n : BitVec 3) : (s.reply c r n).txqa = s.txqa := rfl
@[simp] theorem reply_rxqa (s : State) (c : Bool) (r : Byte) (n : BitVec 3) : (s.reply c r n).rxqa = s.rxqa := rfl
@[simp] theorem reply_rxb (s : State) (c : Bool) (r : Byte) (n : BitVec 3) : (s.reply c r n).rxb = s.rxb := rfl
@[simp] theorem reply_engbAwait (s : State) (c : Bool) (r : Byte) (n : BitVec 3) : (s.reply c r n).engbAwait = 0 := rfl
@[simp] theorem reply_txqb (s : State) (c : Bool) (r : Byte) (n : BitVec 3) : (s.reply c r n).txqb = s.txqb ++ [continueWord c] ++ [busbTxPack r] := rfl
@[simp] theorem reply_faults (s : State) (c : Bool) (r : Byte) (n : BitVec 3) : (s.reply c r n).faults = s.faults := rfl
@[simp] theorem reply_params (s : State) (c : Bool) (r : Byte) (n : BitVec 3) : (s.reply c r n).params = s.params := rfl
@[simp] theorem reply_sched (s : State) (c : Bool) (r : Byte) (n : BitVec 3) : (s.reply c r n).sched = s.sched := rfl
@[simp] theorem reply_freeCtr (s : State) (c : Bool) (r : Byte) (n : BitVec 3) : (s.reply c r n).freeCtr = s.freeCtr := rfl

/-! ### rejectRequest -/

@[simp] theorem rejectRequest_htePhase (s : State) : (rejectRequest s).htePhase = s.htePhase := rfl
@[simp] theorem rejectRequest_hteNOut (s : State) : (rejectRequest s).hteNOut = s.hteNOut := rfl
@[simp] theorem rejectRequest_hteNIn (s : State) : (rejectRequest s).hteNIn = s.hteNIn := rfl
@[simp] theorem rejectRequest_hteIdx (s : State) : (rejectRequest s).hteIdx = s.hteIdx := rfl
@[simp] theorem rejectRequest_hteTcnt (s : State) : (rejectRequest s).hteTcnt = s.hteTcnt := rfl
@[simp] theorem rejectRequest_hteSettle (s : State) : (rejectRequest s).hteSettle = s.hteSettle := rfl
@[simp] theorem rejectRequest_hteBuf (s : State) : (rejectRequest s).hteBuf = s.hteBuf := rfl
@[simp] theorem rejectRequest_rspStatus (s : State) : (rejectRequest s).rspStatus = .badRequest := rfl
@[simp] theorem rejectRequest_rspLen (s : State) : (rejectRequest s).rspLen = 0 := rfl
@[simp] theorem rejectRequest_rspData (s : State) : (rejectRequest s).rspData = s.rspData := rfl
@[simp] theorem rejectRequest_hteChan (s : State) : (rejectRequest s).hteChan = s.hteChan := rfl
@[simp] theorem rejectRequest_stepReg (s : State) : (rejectRequest s).stepReg = s.stepReg := rfl
@[simp] theorem rejectRequest_curButtons (s : State) : (rejectRequest s).curButtons = s.curButtons := rfl
@[simp] theorem rejectRequest_irqEn (s : State) : (rejectRequest s).irqEn = s.irqEn := rfl
@[simp] theorem rejectRequest_irqPend (s : State) : (rejectRequest s).irqPend = s.irqPend := rfl
@[simp] theorem rejectRequest_engaRun (s : State) : (rejectRequest s).engaRun = s.engaRun := rfl
@[simp] theorem rejectRequest_engaCfg (s : State) : (rejectRequest s).engaCfg = s.engaCfg := rfl
@[simp] theorem rejectRequest_txqa (s : State) : (rejectRequest s).txqa = s.txqa := rfl
@[simp] theorem rejectRequest_rxqa (s : State) : (rejectRequest s).rxqa = s.rxqa := rfl
@[simp] theorem rejectRequest_rxb (s : State) : (rejectRequest s).rxb = s.rxb := rfl
@[simp] theorem rejectRequest_engbAwait (s : State) : (rejectRequest s).engbAwait = s.engbAwait := rfl
@[simp] theorem rejectRequest_txqb (s : State) : (rejectRequest s).txqb = s.txqb := rfl
@[simp] theorem rejectRequest_faults (s : State) : (rejectRequest s).faults = s.faults := rfl
@[simp] theorem rejectRequest_params (s : State) : (rejectRequest s).params = s.params := rfl
@[simp] theorem rejectRequest_sched (s : State) : (rejectRequest s).sched = s.sched := rfl
@[simp] theorem rejectRequest_freeCtr (s : State) : (rejectRequest s).freeCtr = s.freeCtr := rfl

/-! ### setup -/

@[simp] theorem setup_htePhase (out : List Byte) (k : Nat) (s : State) : (setup out k s).htePhase = s.htePhase := rfl
@[simp] theorem setup_hteNOut (out : List Byte) (k : Nat) (s : State) : (setup out k s).hteNOut = out.length := rfl
@[simp] theorem setup_hteNIn (out : List Byte) (k : Nat) (s : State) : (setup out k s).hteNIn = k := rfl
@[simp] theorem setup_hteIdx (out : List Byte) (k : Nat) (s : State) : (setup out k s).hteIdx = 0 := rfl
@[simp] theorem setup_hteTcnt (out : List Byte) (k : Nat) (s : State) : (setup out k s).hteTcnt = s.hteTcnt := rfl
@[simp] theorem setup_hteSettle (out : List Byte) (k : Nat) (s : State) : (setup out k s).hteSettle = s.hteSettle := rfl
@[simp] theorem setup_hteBuf (out : List Byte) (k : Nat) (s : State) : (setup out k s).hteBuf = s.hteBuf := rfl
@[simp] theorem setup_rspStatus (out : List Byte) (k : Nat) (s : State) : (setup out k s).rspStatus = s.rspStatus := rfl
@[simp] theorem setup_rspLen (out : List Byte) (k : Nat) (s : State) : (setup out k s).rspLen = s.rspLen := rfl
@[simp] theorem setup_rspData (out : List Byte) (k : Nat) (s : State) : (setup out k s).rspData = s.rspData := rfl
@[simp] theorem setup_hteChan (out : List Byte) (k : Nat) (s : State) : (setup out k s).hteChan = s.hteChan := rfl
@[simp] theorem setup_stepReg (out : List Byte) (k : Nat) (s : State) : (setup out k s).stepReg = s.stepReg := rfl
@[simp] theorem setup_curButtons (out : List Byte) (k : Nat) (s : State) : (setup out k s).curButtons = s.curButtons := rfl
@[simp] theorem setup_irqEn (out : List Byte) (k : Nat) (s : State) : (setup out k s).irqEn = s.irqEn := rfl
@[simp] theorem setup_irqPend (out : List Byte) (k : Nat) (s : State) : (setup out k s).irqPend = s.irqPend := rfl
@[simp] theorem setup_engaRun (out : List Byte) (k : Nat) (s : State) : (setup out k s).engaRun = true := rfl
@[simp] theorem setup_engaCfg (out : List Byte) (k : Nat) (s : State) : (setup out k s).engaCfg = engaBitLength out.length := rfl
@[simp] theorem setup_txqa (out : List Byte) (k : Nat) (s : State) : (setup out k s).txqa = setupWords out := rfl
@[simp] theorem setup_rxqa (out : List Byte) (k : Nat) (s : State) : (setup out k s).rxqa = [] := rfl
@[simp] theorem setup_rxb (out : List Byte) (k : Nat) (s : State) : (setup out k s).rxb = s.rxb := rfl
@[simp] theorem setup_engbAwait (out : List Byte) (k : Nat) (s : State) : (setup out k s).engbAwait = s.engbAwait := rfl
@[simp] theorem setup_txqb (out : List Byte) (k : Nat) (s : State) : (setup out k s).txqb = s.txqb := rfl
@[simp] theorem setup_faults (out : List Byte) (k : Nat) (s : State) : (setup out k s).faults = s.faults := rfl
@[simp] theorem setup_params (out : List Byte) (k : Nat) (s : State) : (setup out k s).params = s.params := rfl
@[simp] theorem setup_sched (out : List Byte) (k : Nat) (s : State) : (setup out k s).sched = s.sched := rfl
@[simp] theorem setup_freeCtr (out : List Byte) (k : Nat) (s : State) : (setup out k s).freeCtr = s.freeCtr := rfl

/-! ### completeOk -/

@[simp] theorem completeOk_htePhase (s : State) : (completeOk s).htePhase = .idle := rfl
@[simp] theorem completeOk_hteNOut (s : State) : (completeOk s).hteNOut = s.hteNOut := rfl
@[simp] theorem completeOk_hteNIn (s : State) : (completeOk s).hteNIn = s.hteNIn := rfl
@[simp] theorem completeOk_hteIdx (s : State) : (completeOk s).hteIdx = s.hteIdx := rfl
@[simp] theorem completeOk_hteTcnt (s : State) : (completeOk s).hteTcnt = s.hteTcnt := rfl
@[simp] theorem completeOk_hteSettle (s : State) : (completeOk s).hteSettle = s.hteSettle := rfl
@[simp] theorem completeOk_hteBuf (s : State) : (completeOk s).hteBuf = s.hteBuf := rfl
@[simp] theorem completeOk_rspStatus (s : State) : (completeOk s).rspStatus = .ok := rfl
@[simp] theorem completeOk_rspLen (s : State) : (completeOk s).rspLen = s.hteNIn := rfl
@[simp] theorem completeOk_rspData (s : State) : (completeOk s).rspData = copyBytes s.hteNIn s.hteBuf s.rspData := rfl
@[simp] theorem completeOk_hteChan (s : State) : (completeOk s).hteChan = s.hteChan := rfl
@[simp] theorem completeOk_stepReg (s : State) : (completeOk s).stepReg = s.stepReg := rfl
@[simp] theorem completeOk_curButtons (s : State) : (completeOk s).curButtons = s.curButtons := rfl
@[simp] theorem completeOk_irqEn (s : State) : (completeOk s).irqEn = s.irqEn := rfl
@[simp] theorem completeOk_irqPend (s : State) : (completeOk s).irqPend = s.irqPend := rfl
@[simp] theorem completeOk_engaRun (s : State) : (completeOk s).engaRun = false := rfl
@[simp] theorem completeOk_engaCfg (s : State) : (completeOk s).engaCfg = s.engaCfg := rfl
@[simp] theorem completeOk_txqa (s : State) : (completeOk s).txqa = s.txqa := rfl
@[simp] theorem completeOk_rxqa (s : State) : (completeOk s).rxqa = s.rxqa := rfl
@[simp] theorem completeOk_rxb (s : State) : (completeOk s).rxb = s.rxb := rfl
@[simp] theorem completeOk_engbAwait (s : State) : (completeOk s).engbAwait = s.engbAwait := rfl
@[simp] theorem completeOk_txqb (s : State) : (completeOk s).txqb = s.txqb := rfl
@[simp] theorem completeOk_faults (s : State) : (completeOk s).faults = s.faults := rfl
@[simp] theorem completeOk_params (s : State) : (completeOk s).params = s.params := rfl
@[simp] theorem completeOk_sched (s : State) : (completeOk s).sched = s.sched := rfl
@[simp] theorem completeOk_freeCtr (s : State) : (completeOk s).freeCtr = s.freeCtr := rfl

/-! ### completeTimeout -/

@[simp] theorem completeTimeout_htePhase (s : State) : (completeTimeout s).htePhase = .idle := rfl
@[simp] theorem completeTimeout_hteNOut (s : State) : (completeTimeout s).hteNOut = s.hteNOut := rfl
@[simp] theorem completeTimeout_hteNIn (s : State) : (completeTimeout s).hteNIn = s.hteNIn := rfl
@[simp] theorem completeTimeout_hteIdx (s : State) : (completeTimeout s).hteIdx = s.hteIdx := rfl
@[simp] theorem completeTimeout_hteTcnt (s : State) : (completeTimeout s).hteTcnt = 0 := rfl
@[simp] theorem completeTimeout_hteSettle (s : State) : (completeTimeout s).hteSettle = s.hteSettle := rfl
@[simp] theorem completeTimeout_hteBuf (s : State) : (completeTimeout s).hteBuf = s.hteBuf := rfl
@[simp] theorem completeTimeout_rspStatus (s : State) : (completeTimeout s).rspStatus = .timeout := rfl
@[simp] theorem completeTimeout_rspLen (s : State) : (completeTimeout s).rspLen = 0 := rfl
@[simp] theorem completeTimeout_rspData (s : State) : (completeTimeout s).rspData = s.rspData := rfl
@[simp] theorem completeTimeout_hteChan (s : State) : (completeTimeout s).hteChan = s.hteChan := rfl
@[simp] theorem completeTimeout_stepReg (s : State) : (completeTimeout s).stepReg = s.stepReg := rfl
@[simp] theorem completeTimeout_curButtons (s : State) : (completeTimeout s).curButtons = s.curButtons := rfl
@[simp] theorem completeTimeout_irqEn (s : State) : (completeTimeout s).irqEn = s.irqEn := rfl
@[simp] theorem completeTimeout_irqPend (s : State) : (completeTimeout s).irqPend = s.irqPend := rfl
@[simp] theorem completeTimeout_engaRun (s : State) : (completeTimeout s).engaRun = false := rfl
@[simp] theorem completeTimeout_engaCfg (s : State) : (completeTimeout s).engaCfg = s.engaCfg := rfl
@[simp] theorem completeTimeout_txqa (s : State) : (completeTimeout s).txqa = s.txqa := rfl
@[simp] theorem completeTimeout_rxqa (s : State) : (completeTimeout s).rxqa = s.rxqa := rfl
@[simp] theorem completeTimeout_rxb (s : State) : (completeTimeout s).rxb = s.rxb := rfl
@[simp] theorem completeTimeout_engbAwait (s : State) : (completeTimeout s).engbAwait = s.engbAwait := rfl
@[simp] theorem completeTimeout_txqb (s : State) : (completeTimeout s).txqb = s.txqb := rfl
@[simp] theorem completeTimeout_faults (s : State) : (completeTimeout s).faults = s.faults := rfl
@[simp] theorem completeTimeout_params (s : State) : (completeTimeout s).params = s.params := rfl
@[simp] theorem completeTimeout_sched (s : State) : (completeTimeout s).sched = s.sched := rfl
@[simp] theorem completeTimeout_freeCtr (s : State) : (completeTimeout s).freeCtr = s.freeCtr := rfl

/-! ### acceptWord -/

@[simp] theorem acceptWord_htePhase (w : Word) (s : State) : (acceptWord w s).htePhase = s.htePhase := rfl
@[simp] theorem acceptWord_hteNOut (w : Word) (s : State) : (acceptWord w s).hteNOut = s.hteNOut := rfl
@[simp] theorem acceptWord_hteNIn (w : Word) (s : State) : (acceptWord w s).hteNIn = s.hteNIn := rfl
@[simp] theorem acceptWord_hteIdx (w : Word) (s : State) : (acceptWord w s).hteIdx = s.hteIdx + 1 := rfl
@[simp] theorem acceptWord_hteTcnt (w : Word) (s : State) : (acceptWord w s).hteTcnt = 0 := rfl
@[simp] theorem acceptWord_hteSettle (w : Word) (s : State) : (acceptWord w s).hteSettle = s.hteSettle := rfl
@[simp] theorem acceptWord_hteBuf (w : Word) (s : State) : (acceptWord w s).hteBuf = Memory.write s.hteBuf s.hteIdx (rxByte w) := rfl
@[simp] theorem acceptWord_rspStatus (w : Word) (s : State) : (acceptWord w s).rspStatus = s.rspStatus := rfl
@[simp] theorem acceptWord_rspLen (w : Word) (s : State) : (acceptWord w s).rspLen = s.rspLen := rfl
@[simp] theorem acceptWord_rspData (w : Word) (s : State) : (acceptWord w s).rspData = s.rspData := rfl
@[simp] theorem acceptWord_hteChan (w : Word) (s : State) : (acceptWord w s).hteChan = s.hteChan := rfl
@[simp] theorem acceptWord_stepReg (w : Word) (s : State) : (acceptWord w s).stepReg = s.stepReg := rfl
@[simp] theorem acceptWord_curButtons (w : Word) (s : State) : (acceptWord w s).curButtons = s.curButtons := rfl
@[simp] theorem acceptWord_irqEn (w : Word) (s : State) : (acceptWord w s).irqEn = s.irqEn := rfl
@[simp] theorem acceptWord_irqPend (w : Word) (s : State) : (acceptWord w s).irqPend = s.irqPend := rfl
@[simp] theorem acceptWord_engaRun (w : Word) (s : State) : (acceptWord w s).engaRun = s.engaRun := rfl
@[simp] theorem acceptWord_engaCfg (w : Word) (s : State) : (acceptWord w s).engaCfg = s.engaCfg := rfl
@[simp] theorem acceptWord_txqa (w : Word) (s : State) : (acceptWord w s).txqa = s.txqa := rfl
@[simp] theorem acceptWord_rxqa (w : Word) (s : State) : (acceptWord w s).rxqa = s.rxqa := rfl
@[simp] theorem acceptWord_rxb (w : Word) (s : State) : (acceptWord w s).rxb = s.rxb := rfl
@[simp] theorem acceptWord_engbAwait (w : Word) (s : State) : (acceptWord w s).engbAwait = s.engbAwait := rfl
@[simp] theorem acceptWord_txqb (w : Word) (s : State) : (acceptWord w s).txqb = s.txqb := rfl
@[simp] theorem acceptWord_faults (w : Word) (s : State) : (acceptWord w s).faults = s.faults := rfl
@[simp] theorem acceptWord_params (w : Word) (s : State) : (acceptWord w s).params = s.params := rfl
@[simp] theorem acceptWord_sched (w : Word) (s : State) : (acceptWord w s).sched = s.sched := rfl
@[simp] theorem acceptWord_freeCtr (w : Word) (s : State) : (acceptWord w s).freeCtr = s.freeCtr := rfl

@[simp] theorem ident_eq (s : State) : s.ident = 0x5A41#16 := rfl

end Sys2Proof.Machine
end

