-- ==== Sys2Proof/Laws/Ops.lean ====
section
/-! SUPPORT. What each shared operation can do, said once: faults, the phase check, the HANDLER step body, and every instruction's meaning by shape. -/

namespace Sys2Proof.Machine

@[simp] theorem insertFault_nil (c : FaultCode) : insertFault c [] = [c] := rfl

theorem insertFault_ne_nil (c : FaultCode) (l : List FaultCode) : insertFault c l ≠ [] := by
  cases l with
  | nil => simp
  | cons d ds => unfold insertFault; split <;> (try split) <;> simp

theorem raiseFault_eq (c : FaultCode) (s : State) : raiseFault c s = .next (s.addFault c) := rfl

theorem whenIdle_idle {s : State} (h : s.htePhase = .idle) (r : Result) : whenIdle s r = r := by
  simp [whenIdle, h]

theorem whenIdle_busy {s : State} (h : s.htePhase ≠ .idle) (r : Result) :
    whenIdle s r = .next (s.addFault .hteBusy) := by
  simp [whenIdle, h, raiseFault]

/-- The HANDLER step body always answers: the overflow fault, or the four writes. -/
theorem answerByte_eq (c : Bool) (r : Byte) (n : BitVec 3) (s : State) :
    answerByte c r n s =
      .next (if s.params.txqbDepth < s.txqb.length + 2 then s.addFault .txqbFull else s.reply c r n) := by
  unfold answerByte raiseFault; split <;> rfl

/-- The row of an instruction as (cont, reply, next). -/
def rowOf (i : Instr) (s : State) : Bool × Byte × BitVec 3 :=
  match i with
  | .rspS0Accept => (true, lowByte s.ident, 1#3)
  | .rspS1Accept => (true, highByte s.ident, 2#3)
  | .rspS2 _ => (true, lowByte s.curButtons, 3#3)
  | .rspS3 _ => (true, highByte s.curButtons, 4#3)
  | .rspS4 _ => (false, terminalReply, 0#3)
  | .rspS0Reject _ => (false, invalidReply, 0#3)
  | .rspS1Reject _ => (false, invalidReply, 0#3)
  | .rspIllegalStep5 _ => (false, invalidReply, 0#3)
  | .rspIllegalStep67 _ _ => (false, invalidReply, 0#3)
  | .transact _ _ => (false, invalidReply, 0#3)
  | .publish _ => (false, invalidReply, 0#3)
  | .irqDisable => (false, invalidReply, 0#3)
  | .irqEnable => (false, invalidReply, 0#3)

/-- Every responder row is the HANDLER step body of its `rowOf`. -/
theorem exec_row {i : Instr} (h : i.isHostOp = false) (s : State) :
    exec i s = answerByte (rowOf i s).1 (rowOf i s).2.1 (rowOf i s).2.2 s := by
  cases i <;> first | rfl | simp [Instr.isHostOp] at h

/-- What a TRANSACT leaves: a fault, the rejection, or a started settle wait. -/
theorem execTransact_eq (out : List Byte) (nIn : Byte) (s : State) :
    exec (.transact out nIn) s =
      .next
        (if s.htePhase = .three then s.addFault .internal
        else if s.htePhase = .idle then
          (if badRequest s.params out.length nIn.toNat then rejectRequest s
          else startSettle out.length (setup out nIn.toNat s))
        else s.addFault .hteBusy) := by
  simp only [exec, execTransact, whenIdle, raiseFault]
  split <;> (try split) <;> (try split) <;> simp_all

/-- What a PUBLISH leaves. -/
theorem execPublish_eq (v : Half) (s : State) :
    exec (.publish v) s =
      .next
        (if s.htePhase = .idle then
          (if s.irqEn then s.addFault .unguardedPublish else { s with curButtons := v })
        else s.addFault .hteBusy) := by
  simp only [exec, execPublish, whenIdle, raiseFault]
  split <;> (try split) <;> rfl

/-- What an IRQ_DISABLE leaves. -/
theorem execIrqDisable_eq (s : State) :
    exec .irqDisable s = .next (if s.htePhase = .idle then { s with irqEn := false } else s.addFault .hteBusy) := by
  simp only [exec, execIrqDisable, whenIdle, raiseFault]
  split <;> rfl

/-- What an IRQ_ENABLE leaves. -/
theorem execIrqEnable_eq (s : State) :
    exec .irqEnable s = .next (if s.htePhase = .idle then { s with irqEn := true } else s.addFault .hteBusy) := by
  simp only [exec, execIrqEnable, whenIdle, raiseFault]
  split <;> rfl

/-- Every instruction answers a next state. -/
theorem exec_answers (i : Instr) (s : State) : ∃ t, exec i s = .next t := by
  cases i with
  | transact out nIn => exact ⟨_, execTransact_eq out nIn s⟩
  | publish v => exact ⟨_, execPublish_eq v s⟩
  | irqDisable => exact ⟨_, execIrqDisable_eq s⟩
  | irqEnable => exact ⟨_, execIrqEnable_eq s⟩
  | rspS0Accept => exact ⟨_, (exec_row rfl s).trans (answerByte_eq ..)⟩
  | rspS0Reject b => exact ⟨_, (exec_row rfl s).trans (answerByte_eq ..)⟩
  | rspS1Accept => exact ⟨_, (exec_row rfl s).trans (answerByte_eq ..)⟩
  | rspS1Reject b => exact ⟨_, (exec_row rfl s).trans (answerByte_eq ..)⟩
  | rspS2 b => exact ⟨_, (exec_row rfl s).trans (answerByte_eq ..)⟩
  | rspS3 b => exact ⟨_, (exec_row rfl s).trans (answerByte_eq ..)⟩
  | rspS4 b => exact ⟨_, (exec_row rfl s).trans (answerByte_eq ..)⟩
  | rspIllegalStep5 b => exact ⟨_, (exec_row rfl s).trans (answerByte_eq ..)⟩
  | rspIllegalStep67 l b => exact ⟨_, (exec_row rfl s).trans (answerByte_eq ..)⟩

/-- The identity bytes (R8). -/
theorem identity_bytes : lowByte 0x5A41#16 = 0x41#8 ∧ highByte 0x5A41#16 = 0x5A#8 := by decide

/-- The reply word as a number. -/
theorem busbTxPack_eq (r : Byte) : busbTxPack r = BitVec.ofNat 32 r.toNat := by
  apply BitVec.eq_of_toNat_eq; simp [busbTxPack]

/-- The outgoing byte word as a concatenation. -/
theorem txByteWord_eq : ∀ o : Byte, txByteWord o = (o ++ 0#24 : Word) := by decide

/-- The writes of a HANDLER step as one update. -/
theorem reply_eq_answered (s : State) (c : Bool) (r : Byte) (n : BitVec 3) :
    s.reply c r n = answered s (continueWord c) (busbTxPack r) n := by
  simp [State.reply, answered, queuePush]

/-- What a row does, both ways, from a state without faults. -/
theorem row_outcomes {i : Instr} (hi : i.isHostOp = false) {s : State} (hf : s.faults = []) :
    (s.txqb.length + 2 ≤ s.params.txqbDepth →
      exec i s = .next (answered s (continueWord (rowOf i s).1) (busbTxPack (rowOf i s).2.1) (rowOf i s).2.2)) ∧
    (s.params.txqbDepth < s.txqb.length + 2 → exec i s = .next { s with faults := [.txqbFull] }) := by
  rw [exec_row hi, answerByte_eq]
  constructor <;> intro h
  · rw [if_neg (by omega), reply_eq_answered]
  · rw [if_pos h]; simp [State.addFault, hf]

end Sys2Proof.Machine
end

