-- ==== Sys2Proof/Laws/Hte.lean ====
section
/-! SUPPORT. What the receive drain, entering RECV and the HTE's events can do. -/

namespace Sys2Proof.Machine

/-- The fields outside the HTE and engine A's `ENGA_RUN` and `RXQA`: no HTE reaction writes them. -/
structure SameSide (s t : State) : Prop where
  hteNOut : t.hteNOut = s.hteNOut
  hteNIn : t.hteNIn = s.hteNIn
  hteSettle : t.hteSettle = s.hteSettle
  hteChan : t.hteChan = s.hteChan
  stepReg : t.stepReg = s.stepReg
  curButtons : t.curButtons = s.curButtons
  irqEn : t.irqEn = s.irqEn
  irqPend : t.irqPend = s.irqPend
  engaCfg : t.engaCfg = s.engaCfg
  txqa : t.txqa = s.txqa
  rxb : t.rxb = s.rxb
  engbAwait : t.engbAwait = s.engbAwait
  txqb : t.txqb = s.txqb
  faults : t.faults = s.faults
  params : t.params = s.params
  sched : t.sched = s.sched
  freeCtr : t.freeCtr = s.freeCtr

theorem SameSide.refl (s : State) : SameSide s s := by constructor <;> rfl

theorem SameSide.trans {s t u : State} (h : SameSide s t) (k : SameSide t u) : SameSide s u where
  hteNOut := k.hteNOut.trans h.hteNOut
  hteNIn := k.hteNIn.trans h.hteNIn
  hteSettle := k.hteSettle.trans h.hteSettle
  hteChan := k.hteChan.trans h.hteChan
  stepReg := k.stepReg.trans h.stepReg
  curButtons := k.curButtons.trans h.curButtons
  irqEn := k.irqEn.trans h.irqEn
  irqPend := k.irqPend.trans h.irqPend
  engaCfg := k.engaCfg.trans h.engaCfg
  txqa := k.txqa.trans h.txqa
  rxb := k.rxb.trans h.rxb
  engbAwait := k.engbAwait.trans h.engbAwait
  txqb := k.txqb.trans h.txqb
  faults := k.faults.trans h.faults
  params := k.params.trans h.params
  sched := k.sched.trans h.sched
  freeCtr := k.freeCtr.trans h.freeCtr

theorem acceptWord_side (w : Word) (s : State) : SameSide s (acceptWord w s) := by constructor <;> rfl

theorem completeOk_side (s : State) : SameSide s (completeOk s) := by constructor <;> rfl

theorem completeTimeout_side (s : State) : SameSide s (completeTimeout s) := by constructor <;> rfl

/-- How many words the drain accepts. -/
def accepted (q : List Word) (s : State) : Nat := min q.length (s.hteNIn - s.hteIdx)

/-- The drain's loop, said once: it accepts the oldest words up to the missing count, stores their bytes from
`HTE_IDX` on, leaves the rest in `RXQA`, restarts the wait if it accepts any, and touches nothing else. -/
structure DrainLoopSpec (q : List Word) (s t : State) : Prop where
  side : SameSide s t
  phase : t.htePhase = s.htePhase
  run : t.engaRun = s.engaRun
  status : t.rspStatus = s.rspStatus
  len : t.rspLen = s.rspLen
  data : t.rspData = s.rspData
  idx : t.hteIdx = s.hteIdx + accepted q s
  queue : t.rxqa = q.drop (accepted q s)
  count : t.hteTcnt = if accepted q s = 0 then s.hteTcnt else 0
  bytes : Memory.wf s.hteBuf = true →
    bytesBelow t.hteIdx t.hteBuf = bytesBelow s.hteIdx s.hteBuf ++ (q.take (accepted q s)).map rxByte
  wf : Memory.wf s.hteBuf = true → Memory.wf t.hteBuf = true
  below : ∀ n, s.hteNIn ≤ n → Memory.below n s.hteBuf = true → Memory.below n t.hteBuf = true

theorem bytesBelow_acceptWord {s : State} (w : Word) (h : Memory.wf s.hteBuf = true) :
    bytesBelow (s.hteIdx + 1) (acceptWord w s).hteBuf = bytesBelow s.hteIdx s.hteBuf ++ [rxByte w] := by
  rw [bytesBelow_succ]
  congr 1
  · exact bytesBelow_congr fun i hi => by
      rw [acceptWord_hteBuf, Memory.read_write h]; simp [show i ≠ s.hteIdx by omega]
  · rw [acceptWord_hteBuf, Memory.read_write h]; simp

theorem drainLoop_spec (q : List Word) : ∀ s : State, DrainLoopSpec q s (drainLoop q s) := by
  induction q with
  | nil =>
    intro s
    have e : accepted [] s = 0 := by simp [accepted]
    constructor <;> (try intros) <;> (try assumption) <;> simp_all [drainLoop]
    constructor <;> rfl
  | cons w q ih =>
    intro s
    unfold drainLoop
    split
    · rename_i hlt
      have k := ih (acceptWord w s)
      have e : accepted (w :: q) s = accepted q (acceptWord w s) + 1 := by
        simp only [accepted, List.length_cons, acceptWord_hteNIn, acceptWord_hteIdx]; omega
      exact
        { side := (acceptWord_side w s).trans k.side
          phase := k.phase
          run := k.run
          status := k.status
          len := k.len
          data := k.data
          idx := by rw [k.idx, e, acceptWord_hteIdx]; omega
          queue := by rw [k.queue, e]; rfl
          count := by rw [k.count, e]; simp
          bytes := fun h => by
            rw [k.bytes (Memory.wf_write h _ _), e, acceptWord_hteIdx, bytesBelow_acceptWord w h]
            simp
          wf := fun h => k.wf (Memory.wf_write h _ _)
          below := fun n hn h => k.below n hn (Memory.below_write _ (by omega) h) }
    · rename_i hge
      have e : accepted (w :: q) s = 0 := by simp only [accepted]; omega
      exact
        { side := by constructor <;> rfl
          phase := rfl
          run := rfl
          status := rfl
          len := rfl
          data := rfl
          idx := by rw [e]; rfl
          queue := by rw [e]; rfl
          count := by rw [e]; rfl
          bytes := fun _ => by rw [e]; simp
          wf := id
          below := fun _ _ => id }

/-- The drain either completes OK or leaves what its loop leaves. -/
theorem drain_cases (s : State) :
    (s.hteIdx + accepted s.rxqa s = s.hteNIn ∧ drain s = completeOk (drainLoop s.rxqa s)) ∨
    (s.hteIdx + accepted s.rxqa s ≠ s.hteNIn ∧ drain s = drainLoop s.rxqa s) := by
  have k := drainLoop_spec s.rxqa s
  unfold drain completeIfAll
  rw [k.idx, k.side.hteNIn]
  split
  · exact .inl ⟨‹_›, rfl⟩
  · exact .inr ⟨‹_›, rfl⟩

theorem drain_side (s : State) : SameSide s (drain s) := by
  have k := (drainLoop_spec s.rxqa s).side
  rcases drain_cases s with ⟨_, e⟩ | ⟨_, e⟩ <;> rw [e]
  · exact k.trans (completeOk_side _)
  · exact k

theorem enterRecv_side (s : State) : SameSide s (enterRecv s) :=
  SameSide.trans (by constructor <;> rfl) (drain_side _)

theorem tickSettle_side (s : State) : SameSide s (tickSettle s) := by
  unfold tickSettle
  dsimp only
  split
  · exact SameSide.trans (by constructor <;> rfl) (enterRecv_side _)
  · constructor <;> rfl

theorem tickRecv_side (s : State) : SameSide s (tickRecv s) := by
  unfold tickRecv
  dsimp only
  split <;> constructor <;> rfl

/-- A settle wait of at least one outgoing byte is not empty, so TRANSACT does not enter RECV itself (R105). -/
theorem startSettle_eq {n : Nat} (hn : 1 ≤ n) (s : State) :
    startSettle n s = { s with hteSettle := 32 * n + s.params.settleGuard, hteTcnt := 0, htePhase := .settle } := by
  have e : Config.settleTicks s.params n = 32 * n + s.params.settleGuard := by
    unfold Config.settleTicks Config.settleMult Config.bitsPerByte; omega
  unfold startSettle
  dsimp only
  rw [e, if_neg (by omega)]

/-- A request that is not bad has at least one outgoing byte. -/
theorem one_le_of_not_bad {p : Config.Params} {n k : Nat} (h : ¬ badRequest p n k) :
    1 ≤ n ∧ n ≤ p.maxOut ∧ k ≤ p.maxIn := by
  unfold badRequest at h; omega

/-- The drain of one word while a byte is missing. -/
theorem drain_single {s : State} {w : Word} (h : s.hteIdx < s.hteNIn) (hq : s.rxqa = [w]) :
    drain s = completeIfAll { acceptWord w s with rxqa := [] } := by
  unfold drain; rw [hq]; unfold drainLoop; rw [if_pos h]; rfl

theorem drain_single_more {s : State} {w : Word} (h : s.hteIdx + 1 < s.hteNIn) (hq : s.rxqa = [w]) :
    drain s = { acceptWord w s with rxqa := [] } :=
  (drain_single (by omega) hq).trans (if_neg (show ¬ s.hteIdx + 1 = s.hteNIn by omega))

theorem drain_single_last {s : State} {w : Word} (h : s.hteIdx + 1 = s.hteNIn) (hq : s.rxqa = [w]) :
    drain s = completeOk { acceptWord w s with rxqa := [] } :=
  (drain_single (by omega) hq).trans (if_pos (show s.hteIdx + 1 = s.hteNIn from h))

end Sys2Proof.Machine
end

