-- ==== Sys2Proof/Laws/PerInstr.lean ====
section
/-! SUPPORT. The laws stated of every instruction, one lemma per constructor: its encoding matches the mask and match of its own row of opcode_table.json (30_encoding.md R71, R82). -/

namespace Sys2Proof.Laws

/-- The mask and the match of an instruction's row, as opcode_table.json has them. -/
def tableRow : Instr → Word × Word
  | .transact _ _ => (0xFFFF0000#32, 0x10000000#32)
  | .publish _ => (0xFFFF0000#32, 0x20000000#32)
  | .irqDisable => (0xFFFFFFFF#32, 0x30000000#32)
  | .irqEnable => (0xFFFFFFFF#32, 0x40000000#32)
  | .rspS0Accept => (0x7FF#32, 0x001#32)
  | .rspS0Reject _ => (0x700#32, 0x000#32)
  | .rspS1Accept => (0x7FF#32, 0x142#32)
  | .rspS1Reject _ => (0x700#32, 0x100#32)
  | .rspS2 _ => (0x700#32, 0x200#32)
  | .rspS3 _ => (0x700#32, 0x300#32)
  | .rspS4 _ => (0x700#32, 0x400#32)
  | .rspIllegalStep5 _ => (0x700#32, 0x500#32)
  | .rspIllegalStep67 _ _ => (0x600#32, 0x600#32)

/-- The command word, or the key widened to the table's numbering. -/
def encodedBits : Encoded → Word
  | .command w _ => w
  | .key k => k.setWidth 32

/-- The encoding of an instruction matches its row. -/
def EncodingMatchesRow.Statement (i : Instr) : Prop :=
  encodedBits (encode i) &&& (tableRow i).1 = (tableRow i).2

theorem EncodingMatchesRow.transact (out : List Byte) (nIn : Byte) :
    EncodingMatchesRow.Statement (.transact out nIn) :=
  (and_transact_iff _).mpr (fields_append 0x1000#16 (BitVec.ofNat 8 out.length) nIn).1

theorem EncodingMatchesRow.publish (value : Half) : EncodingMatchesRow.Statement (.publish value) :=
  (and_publish_iff _).mpr (value_append 0x2000#16 value).1

theorem EncodingMatchesRow.irqDisable : EncodingMatchesRow.Statement .irqDisable := by
  unfold EncodingMatchesRow.Statement; decide

theorem EncodingMatchesRow.irqEnable : EncodingMatchesRow.Statement .irqEnable := by
  unfold EncodingMatchesRow.Statement; decide

theorem EncodingMatchesRow.rspS0Accept : EncodingMatchesRow.Statement .rspS0Accept := by
  unfold EncodingMatchesRow.Statement; decide

theorem EncodingMatchesRow.rspS0Reject (b : Byte) : EncodingMatchesRow.Statement (.rspS0Reject b) := by
  unfold EncodingMatchesRow.Statement; revert b; decide

theorem EncodingMatchesRow.rspS1Accept : EncodingMatchesRow.Statement .rspS1Accept := by
  unfold EncodingMatchesRow.Statement; decide

theorem EncodingMatchesRow.rspS1Reject (b : Byte) : EncodingMatchesRow.Statement (.rspS1Reject b) := by
  unfold EncodingMatchesRow.Statement; revert b; decide

theorem EncodingMatchesRow.rspS2 (b : Byte) : EncodingMatchesRow.Statement (.rspS2 b) := by
  unfold EncodingMatchesRow.Statement; revert b; decide

theorem EncodingMatchesRow.rspS3 (b : Byte) : EncodingMatchesRow.Statement (.rspS3 b) := by
  unfold EncodingMatchesRow.Statement; revert b; decide

theorem EncodingMatchesRow.rspS4 (b : Byte) : EncodingMatchesRow.Statement (.rspS4 b) := by
  unfold EncodingMatchesRow.Statement; revert b; decide

theorem EncodingMatchesRow.rspIllegalStep5 (b : Byte) : EncodingMatchesRow.Statement (.rspIllegalStep5 b) := by
  unfold EncodingMatchesRow.Statement; revert b; decide

theorem EncodingMatchesRow.rspIllegalStep67 (lowBit : BitVec 1) (b : Byte) :
    EncodingMatchesRow.Statement (.rspIllegalStep67 lowBit b) := by
  unfold EncodingMatchesRow.Statement; revert lowBit b; decide

end Sys2Proof.Laws
end

