-- ==== Sys2Proof/Laws/Step.lean ====
section
/-! SUPPORT. What one step can do: the inversion of step, of a move and of each kind of move. -/

namespace Sys2Proof.Machine

/-- The state with the next move taken off the schedule, or the free move counted. -/
def State.popped (s : State) : State :=
  match s.sched with
  | _ :: rest => { s with sched := rest }
  | [] => { s with freeCtr := s.freeCtr + 1 }

/-- `popped` touches the model's own fields only. -/
theorem popped_eq (s : State) :
    s.popped = { s with sched := s.popped.sched, freeCtr := s.popped.freeCtr } := by
  unfold State.popped; split <;> rfl

@[simp] theorem popped_htePhase (s : State) : s.popped.htePhase = s.htePhase := by rw [popped_eq]
@[simp] theorem popped_hteNOut (s : State) : s.popped.hteNOut = s.hteNOut := by rw [popped_eq]
@[simp] theorem popped_hteNIn (s : State) : s.popped.hteNIn = s.hteNIn := by rw [popped_eq]
@[simp] theorem popped_hteIdx (s : State) : s.popped.hteIdx = s.hteIdx := by rw [popped_eq]
@[simp] theorem popped_hteTcnt (s : State) : s.popped.hteTcnt = s.hteTcnt := by rw [popped_eq]
@[simp] theorem popped_hteSettle (s : State) : s.popped.hteSettle = s.hteSettle := by rw [popped_eq]
@[simp] theorem popped_hteBuf (s : State) : s.popped.hteBuf = s.hteBuf := by rw [popped_eq]
@[simp] theorem popped_rspStatus (s : State) : s.popped.rspStatus = s.rspStatus := by rw [popped_eq]
@[simp] theorem popped_rspLen (s : State) : s.popped.rspLen = s.rspLen := by rw [popped_eq]
@[simp] theorem popped_rspData (s : State) : s.popped.rspData = s.rspData := by rw [popped_eq]
@[simp] theorem popped_hteChan (s : State) : s.popped.hteChan = s.hteChan := by rw [popped_eq]
@[simp] theorem popped_stepReg (s : State) : s.popped.stepReg = s.stepReg := by rw [popped_eq]
@[simp] theorem popped_curButtons (s : State) : s.popped.curButtons = s.curButtons := by rw [popped_eq]
@[simp] theorem popped_irqEn (s : State) : s.popped.irqEn = s.irqEn := by rw [popped_eq]
@[simp] theorem popped_irqPend (s : State) : s.popped.irqPend = s.irqPend := by rw [popped_eq]
@[simp] theorem popped_engaRun (s : State) : s.popped.engaRun = s.engaRun := by rw [popped_eq]
@[simp] theorem popped_engaCfg (s : State) : s.popped.engaCfg = s.engaCfg := by rw [popped_eq]
@[simp] theorem popped_txqa (s : State) : s.popped.txqa = s.txqa := by rw [popped_eq]
@[simp] theorem popped_rxqa (s : State) : s.popped.rxqa = s.rxqa := by rw [popped_eq]
@[simp] theorem popped_rxb (s : State) : s.popped.rxb = s.rxb := by rw [popped_eq]
@[simp] theorem popped_engbAwait (s : State) : s.popped.engbAwait = s.engbAwait := by rw [popped_eq]
@[simp] theorem popped_txqb (s : State) : s.popped.txqb = s.txqb := by rw [popped_eq]
@[simp] theorem popped_faults (s : State) : s.popped.faults = s.faults := by rw [popped_eq]
@[simp] theorem popped_params (s : State) : s.popped.params = s.params := by rw [popped_eq]

theorem popped_cons {s : State} {m : Move} {rest : List Move} (h : s.sched = m :: rest) :
    s.popped = { s with sched := rest } := by unfold State.popped; rw [h]

theorem popped_nil {s : State} (h : s.sched = []) : s.popped = { s with freeCtr := s.freeCtr + 1 } := by
  unfold State.popped; rw [h]

theorem nextMove_cons {s : State} {m : Move} {rest : List Move} (h : s.sched = m :: rest) : nextMove s = m := by
  unfold nextMove; rw [h]

theorem nextMove_nil {s : State} (h : s.sched = []) : nextMove s = Config.freeMove s.freeCtr := by
  unfold nextMove; rw [h]

theorem step_cons {s : State} (hf : s.faults = []) {m : Move} {rest : List Move} (hs : s.sched = m :: rest) :
    step s = takeMove m { s with sched := rest } := by
  unfold step; rw [hf, hs]

theorem step_nil {s : State} (hf : s.faults = []) (hs : s.sched = []) :
    step s = takeFreeMove (Config.freeMove s.freeCtr) { s with freeCtr := s.freeCtr + 1 } := by
  unfold step; rw [hf, hs]

theorem step_faulted {s : State} (hf : s.faults ≠ []) : step s = .fault (.quiescent s.faults) := by
  unfold step
  cases h : s.faults with
  | nil => exact absurd h hf
  | cons c cs => rfl

/-- A step that answers next ran from a state without faults, and took its move, or found that a free move's agent
has no step. -/
theorem step_next {s t : State} (h : step s = .next t) :
    s.faults = [] ∧
      (takeMove (nextMove s) s.popped = .next t ∨
        ((s.sched = [] ∧ ∃ r, takeMove (nextMove s) s.popped = .refused r) ∧ t = s.popped)) := by
  by_cases hf : s.faults = []
  · refine ⟨hf, ?_⟩
    rcases hs : s.sched with _ | ⟨m, rest⟩
    · rw [step_nil hf hs] at h
      rw [nextMove_nil hs, popped_nil hs]
      unfold takeFreeMove at h
      split at h
      · exact .inr ⟨⟨rfl, _, ‹_›⟩, (Host.Outcome.next.inj h).symm⟩
      · rename_i heq
        exact .inl (heq.trans h)
      · cases h
    · rw [step_cons hf hs] at h
      rw [nextMove_cons hs, popped_cons hs]
      exact .inl h
  · rw [step_faulted hf] at h; cases h

/-- A presented command that answers next was reserved, or decoded and executed. -/
theorem presentCommand_next {w : Word} {p : List Byte} {s t : State} (h : presentCommand w p s = .next t) :
    (∃ i, decodeCommand w p = .ok i ∧ exec i s = .next t) ∨
    (decodeCommand w p = .error .reserved ∧ t = s.addFault .reservedOp) := by
  unfold presentCommand at h
  split at h
  · exact .inl ⟨_, ‹_›, h⟩
  · exact .inr ⟨‹_›, by simpa [raiseFault] using h.symm⟩
  · cases h

/-- What the command decoder reads is a host operation. -/
theorem decodeCommand_isHostOp {w : Word} {p : List Byte} {i : Instr} (h : decodeCommand w p = .ok i) :
    i.isHostOp = true := by
  unfold decodeCommand withoutPayload at h
  repeat' split at h
  all_goals first | cases h; done | (cases h; rfl)

/-- What the responder decoder reads is a row. -/
theorem decodeKey_isRow {k : BitVec 11} {i : Instr} (h : decodeKey k = .ok i) : i.isHostOp = false := by
  unfold decodeKey at h
  repeat' split at h
  all_goals first | cases h; done | (cases h; rfl)

/-- The HANDLER step that answers next was enabled, decoded a row, and ran its body. -/
theorem takeInterrupt_next {s t : State} (h : takeInterrupt s = .next t) :
    s.irqEn = true ∧ s.irqPend = true ∧
      ∃ i, decodeKey (handlerKey s) = .ok i ∧ i.isHostOp = false ∧ exec i s = .next t := by
  unfold takeInterrupt at h
  split at h
  · rename_i he
    have he' : s.irqEn = true ∧ s.irqPend = true := by simpa [handlerEnabled] using he
    split at h
    · exact ⟨he'.1, he'.2, _, ‹_›, decodeKey_isRow ‹_›, h⟩
    · cases h
  · cases h

/-- A row that answers next faulted on the full reply queue or made the four writes. -/
theorem exec_row_next {i : Instr} (hi : i.isHostOp = false) {s t : State} (h : exec i s = .next t) :
    (s.params.txqbDepth < s.txqb.length + 2 ∧ t = s.addFault .txqbFull) ∨
    (s.txqb.length + 2 ≤ s.params.txqbDepth ∧ ∃ c r n, (c, r, n) = rowOf i s ∧ t = s.reply c r n) := by
  rw [exec_row hi, answerByte_eq] at h
  split at h
  · exact .inl ⟨‹_›, (Host.Outcome.next.inj h).symm⟩
  · exact .inr ⟨by omega, _, _, _, rfl, (Host.Outcome.next.inj h).symm⟩

theorem evRxa_next {w : Word} {s t : State} (h : evRxa w s = .next t) :
    s.engaRun = true ∧ s.rxqa.length < s.params.rxqaDepth ∧
      ((s.htePhase = .recv ∧ t = drain { s with rxqa := s.rxqa ++ [w] }) ∨
        (s.htePhase ≠ .recv ∧ t = { s with rxqa := s.rxqa ++ [w] })) := by
  unfold evRxa at h
  split at h
  · rename_i he
    have he' : s.engaRun = true ∧ s.rxqa.length < s.params.rxqaDepth := by
      simpa [rxaEnabled, queueFull] using he
    refine ⟨he'.1, he'.2, ?_⟩
    dsimp only at h
    split at h
    · exact .inl ⟨‹_›, by simpa [queuePush] using h.symm⟩
    · exact .inr ⟨‹_›, by simpa [queuePush] using h.symm⟩
  · cases h

theorem evTakeA_next {s t : State} (h : evTakeA s = .next t) :
    s.engaRun = true ∧ ∃ w q, s.txqa = w :: q ∧ t = { s with txqa := q } := by
  unfold evTakeA at h
  split at h
  · exact ⟨‹_›, _, _, ‹_›, by simpa using h.symm⟩
  · cases h

theorem evByteB_next {b : Byte} {s t : State} (h : evByteB b s = .next t) :
    s.irqPend = false ∧ s.engbAwait = 0 ∧ t = { s with rxb := b, irqPend := true, engbAwait := 2 } := by
  unfold evByteB at h
  split at h
  · rename_i he
    have he' : s.irqPend = false ∧ s.engbAwait = 0 := by simpa [byteBEnabled] using he
    exact ⟨he'.1, he'.2, by simpa using h.symm⟩
  · cases h

theorem evTakeB_next {s t : State} (h : evTakeB s = .next t) :
    ∃ w q, s.txqb = w :: q ∧ t = { s with txqb := q } := by
  unfold evTakeB at h
  split at h
  · exact ⟨_, _, ‹_›, by simpa using h.symm⟩
  · cases h

theorem evTick_next {s t : State} (h : evTick s = .next t) :
    (s.htePhase = .idle ∧ t = s) ∨ (s.htePhase = .settle ∧ t = tickSettle s) ∨
      (s.htePhase = .recv ∧ t = tickRecv s) ∨ (s.htePhase = .three ∧ t = s.addFault .internal) := by
  unfold evTick at h
  split at h
  · exact .inl ⟨‹_›, by simpa using h.symm⟩
  · exact .inr (.inl ⟨‹_›, by simpa using h.symm⟩)
  · exact .inr (.inr (.inl ⟨‹_›, by simpa using h.symm⟩))
  · exact .inr (.inr (.inr ⟨‹_›, by simpa [raiseFault] using h.symm⟩))

/-- A presented word that decodes is executed. -/
theorem presentCommand_ok {w : Word} {p : List Byte} {i : Instr} (h : decodeCommand w p = .ok i) (s : State) :
    presentCommand w p s = exec i s := by
  unfold presentCommand; rw [h]

/-- An enabled and pending interrupt runs the row its key decodes to: every key decodes to a row. -/
theorem takeInterrupt_runs_row {s : State} (he : s.irqEn = true) (hp : s.irqPend = true) :
    ∃ i, decodeKey (handlerKey s) = .ok i ∧ i.isHostOp = false ∧ takeInterrupt s = exec i s := by
  obtain ⟨i, hi⟩ : ∃ i, decodeKey (handlerKey s) = .ok i := by
    unfold handlerKey
    rw [decodeKey_append]
    repeat' split
    all_goals exact ⟨_, rfl⟩
  refine ⟨i, hi, decodeKey_isRow hi, ?_⟩
  rw [takeInterrupt, if_pos (by simp [handlerEnabled, he, hp]), hi]

/-- The HANDLER step, when enabled and pending, decodes a row and runs it. -/
theorem step_irq {s : State} (hf : s.faults = []) (he : s.irqEn = true) (hp : s.irqPend = true) {rest : List Move}
    (hs : s.sched = .irq :: rest) :
    ∃ i, decodeKey (handlerKey s) = .ok i ∧ i.isHostOp = false ∧ step s = exec i { s with sched := rest } := by
  obtain ⟨i, hi, hr, h⟩ := takeInterrupt_runs_row (s := { s with sched := rest }) he hp
  exact ⟨i, hi, hr, (step_cons hf hs).trans h⟩

/-- An RX word in RECV with `RXQA` empty is drained at once. -/
theorem step_rxa_recv {s : State} {w : Word} {rest : List Move} (hf : s.faults = []) (hs : s.sched = .rxa w :: rest)
    (h1 : s.engaRun = true) (hp : s.htePhase = .recv) (hq : s.rxqa = []) (hd : 1 ≤ s.params.rxqaDepth) :
    step s = .next (drain { s with sched := rest, rxqa := [w] }) := by
  rw [step_cons hf hs]
  simp only [takeMove, evRxa]
  rw [if_pos (by simp [rxaEnabled, queueFull, h1, hq]; omega)]
  simp [hp, hq, queuePush]

/-! ### Runs -/

theorem stepN_succ (n : Nat) {s t : State} (h : step s = .next t) : stepN (n + 1) s = stepN n t := by
  simp [stepN, h]

/-- A run of `a` steps followed by one of `b`. -/
theorem stepN_add (a b : Nat) {s t : State} : stepN a s = .next t → stepN (a + b) s = stepN b t := by
  induction a generalizing s with
  | zero => intro h; cases h; rw [Nat.zero_add]
  | succ a ih =>
    intro h
    rw [Nat.add_right_comm]
    cases hs : step s with
    | next u => rw [stepN_succ _ hs] at h ⊢; exact ih h
    | fault r => simp [stepN, hs] at h
    | refused r => simp [stepN, hs] at h

end Sys2Proof.Machine
end

