-- ==== Sys2Proof/Tests/Slice0.lean ====
section
/-! SUPPORT. Tests against the vectors of spec/95_test_vectors.md, the smoke test of WellFormed, the decoding of written-out words, and a witness for the hypotheses of each obligation. -/

namespace Sys2Proof.Tests

open Sys2Proof.Machine

/-! ### Helpers -/

/-- The parameters the H vectors assume (95_test_vectors.md, conventions): `SETTLE_GUARD` 8, `MAX_IN` 8. -/
def params : Config.Params :=
  { settleGuard := 8, tUnit := 1, maxOut := 3, maxIn := 8, txqaDepth := 4, rxqaDepth := 2, txqbDepth := 4 }

/-- The reset state with those parameters. -/
def base : State := { State.reset with params := params, hteChan := 0 }

/-- The start state of the S vectors: interrupt enabled, `CUR_BUTTONS` 0xDFFF, `STEP` and a pending byte given. -/
def pending (st : BitVec 3) (b : Byte) : State :=
  { base with irqEn := true, curButtons := 0xDFFF#16, stepReg := st, rxb := b, irqPend := true, engbAwait := 2 }

/-- After vector D-1: SETTLE of TRANSACT out=[0x40] nin=3. -/
def settling : State :=
  { base with
    htePhase := .settle, engaRun := true, engaCfg := 8#32, txqa := [0x00000008#32, 0x40000000#32], hteNOut := 1,
    hteNIn := 3, hteSettle := 40 }

/-- After vector H-4: RECV of the same transaction, no byte yet. -/
def receiving : State := { settling with htePhase := .recv }

/-- The outcome is a next state that `p` accepts. -/
def answers (r : Result) (p : State → Bool) : Bool :=
  match r with
  | .next t => p t
  | .fault _ => false
  | .refused _ => false

theorem next_of_answers {r : Result} {p : State → Bool} (h : answers r p = true) : ∃ t, r = .next t ∧ p t = true := by
  cases r with
  | next t => exact ⟨t, rfl, h⟩
  | fault _ => cases h
  | refused _ => cases h

/-- `s` with the moves `ms` to come. -/
def withMoves (s : State) (ms : List Move) : State := { s with sched := ms }

/-! ### WellFormed: each check refuses an ill-formed term -/

theorem test_wf_refuses_long_payload : (Instr.transact (List.replicate 256 0x00#8) 0x00#8).wf = false := by
  show decide ((List.replicate 256 0x00#8).length < 256) = false
  rw [List.length_replicate]; rfl
theorem test_wf_takes_longest_payload : (Instr.transact (List.replicate 255 0x00#8) 0x00#8).wf = true := by
  show decide ((List.replicate 255 0x00#8).length < 256) = true
  rw [List.length_replicate]; rfl
theorem test_wf_refuses_accepted_byte_step0 : (Instr.rspS0Reject 0x01#8).wf = false := by decide
theorem test_wf_refuses_accepted_byte_step1 : (Instr.rspS1Reject 0x42#8).wf = false := by decide

/-! ### Decoding: one written-out word per constructor (30_encoding.md R71, R82; vectors D, S) -/

theorem test_decode_transact :
    decode (.command 0b00010000000000000000001100000010#32 [0x40#8, 0x03#8, 0x00#8]) =
      .ok (.transact [0x40#8, 0x03#8, 0x00#8] 0x02#8) := by decide
theorem test_decode_publish :
    decode (.command 0b00100000000000001010101111001101#32 []) = .ok (.publish 0xABCD#16) := by decide
theorem test_decode_irqDisable :
    decode (.command 0b00110000000000000000000000000000#32 []) = .ok .irqDisable := by decide
theorem test_decode_irqEnable :
    decode (.command 0b01000000000000000000000000000000#32 []) = .ok .irqEnable := by decide
theorem test_decode_rspS0Accept : decode (.key 0b00000000001#11) = .ok .rspS0Accept := by decide
theorem test_decode_rspS0Reject : decode (.key 0b00001000010#11) = .ok (.rspS0Reject 0x42#8) := by decide
theorem test_decode_rspS1Accept : decode (.key 0b00101000010#11) = .ok .rspS1Accept := by decide
theorem test_decode_rspS1Reject : decode (.key 0b00101000011#11) = .ok (.rspS1Reject 0x43#8) := by decide
theorem test_decode_rspS2 : decode (.key 0b01000000001#11) = .ok (.rspS2 0x01#8) := by decide
theorem test_decode_rspS3 : decode (.key 0b01111111111#11) = .ok (.rspS3 0xFF#8) := by decide
theorem test_decode_rspS4 : decode (.key 0b10001010101#11) = .ok (.rspS4 0x55#8) := by decide
theorem test_decode_rspIllegalStep5 : decode (.key 0b10100000001#11) = .ok (.rspIllegalStep5 0x01#8) := by decide
theorem test_decode_rspIllegalStep6 :
    decode (.key 0b11001000010#11) = .ok (.rspIllegalStep67 0#1 0x42#8) := by decide
theorem test_decode_rspIllegalStep7 :
    decode (.key 0b11100000000#11) = .ok (.rspIllegalStep67 1#1 0x00#8) := by decide

/-- Vectors D-3, D-6 to D-10, D-13: reserved words. -/
theorem test_decode_reserved :
    [0x10010103#32, 0x00000000#32, 0x50000000#32, 0xF0000000#32, 0x30000001#32, 0x40000100#32, 0x20010000#32].all
      (fun w => decode (.command w []) == Except.error .reserved) = true := by decide

/-! ### One step each (vectors D, H, S, X) -/

/-- D-1 (the payload byte 0x40 stands above bit 32 of the number). -/
theorem test_transact_D1 :
    answers (step (base.withFetchWord 40 0x4010000103)) (fun t =>
      t.htePhase = .settle && t.hteSettle = 40 && t.txqa = [0x00000008#32, 0x40000000#32] && t.engaCfg = 8#32 &&
        t.engaRun) = true := by decide
/-- D-2. -/
theorem test_transact_D2 :
    answers (step (base.withFetchWord 32 0x10000000)) (fun t =>
      t.rspStatus = .badRequest && t.rspLen = 0 && t.htePhase = .idle && !t.engaRun) = true := by decide
/-- D-4. -/
theorem test_publish_D4 :
    answers (step (base.withFetchWord 32 0x2000ABCD)) (fun t => t.curButtons = 0xABCD#16) = true := by decide
/-- D-5. -/
theorem test_publish_D5 :
    answers (step ({ base with irqEn := true }.withFetchWord 32 0x2000ABCD)) (fun t =>
      t.faults = [.unguardedPublish] && t.curButtons = 0xFFFF#16) = true := by decide
/-- R171: a pending byte stays pending. -/
theorem test_irqDisable_keeps_pending :
    answers (step ((pending 0#3 0x01#8).withFetchWord 32 0x30000000)) (fun t => !t.irqEn && t.irqPend) = true := by
  decide
/-- D-12. -/
theorem test_irqEnable_D12 :
    answers (step (base.withFetchWord 32 0x40000000)) (fun t => t.irqEn) = true := by decide
/-- S-1. -/
theorem test_rspS0Accept_S1 :
    answers (step (base.withFetchWord 16 0x001)) (fun t =>
      t.txqb = [0xFFFFFFFF#32, 0x00000041#32] && t.stepReg = 1#3 && !t.irqPend && t.engbAwait = 0) = true := by decide
/-- S-3. -/
theorem test_rspS0Reject_S3 :
    answers (step (withMoves (pending 0#3 0xFF#8) [.irq])) (fun t =>
      t.txqb = [0x00000000#32, 0x00000000#32] && t.stepReg = 0#3) = true := by decide
/-- S-5. -/
theorem test_rspS1Accept_S5 :
    answers (step (withMoves (pending 1#3 0x42#8) [.irq])) (fun t =>
      t.txqb = [0xFFFFFFFF#32, 0x0000005A#32] && t.stepReg = 2#3) = true := by decide
/-- S-6. -/
theorem test_rspS1Reject_S6 :
    answers (step (withMoves (pending 1#3 0x01#8) [.irq])) (fun t =>
      t.txqb = [0x00000000#32, 0x00000000#32] && t.stepReg = 0#3) = true := by decide
/-- S-16. -/
theorem test_rspS2_S16 :
    answers (step (withMoves { pending 2#3 0x00#8 with curButtons := 0xABCD#16 } [.irq])) (fun t =>
      t.txqb = [0xFFFFFFFF#32, 0x000000CD#32] && t.stepReg = 3#3) = true := by decide
/-- S-17. -/
theorem test_rspS3_S17 :
    answers (step (withMoves { pending 3#3 0x00#8 with curButtons := 0xABCD#16 } [.irq])) (fun t =>
      t.txqb = [0xFFFFFFFF#32, 0x000000AB#32] && t.stepReg = 4#3) = true := by decide
/-- S-12. -/
theorem test_rspS4_S12 :
    answers (step (withMoves (pending 4#3 0x01#8) [.irq])) (fun t =>
      t.txqb = [0x00000000#32, 0x00000000#32] && t.stepReg = 0#3) = true := by decide
/-- S-13. -/
theorem test_rspIllegalStep5_S13 :
    answers (step (withMoves (pending 5#3 0x01#8) [.irq])) (fun t =>
      t.txqb = [0x00000000#32, 0x00000000#32] && t.stepReg = 0#3) = true := by decide
/-- S-15. -/
theorem test_rspIllegalStep67_S15 :
    answers (step (withMoves (pending 7#3 0x00#8) [.irq])) (fun t =>
      t.txqb = [0x00000000#32, 0x00000000#32] && t.stepReg = 0#3) = true := by decide
/-- H-4: the 40th tick enters RECV. -/
theorem test_tick_H4 :
    answers (step (withMoves { settling with hteTcnt := 39 } [.tick])) (fun t =>
      t.htePhase = .recv && t.hteTcnt = 0 && t.hteIdx = 0) = true := by decide
/-- H-5: the 40th tick drains both queued words. -/
theorem test_tick_H5 :
    answers (step (withMoves { settling with hteTcnt := 39, rxqa := [0x11000000#32, 0x22000000#32] } [.tick]))
      (fun t => bytesBelow 2 t.hteBuf = [0x11#8, 0x22#8] && t.hteIdx = 2 && t.rxqa = []) = true := by decide
/-- H-9: the 64th tick of a wait; R12 resets the counter (log 25). -/
theorem test_tick_H9 :
    answers (step (withMoves { receiving with hteTcnt := 63 } [.tick])) (fun t =>
      response t = (.timeout, []) && !t.engaRun && t.htePhase = .idle && t.hteTcnt = 0) = true := by decide
/-- H-13. -/
theorem test_rxa_H13 :
    answers (step (withMoves receiving [.rxa 0xAB123456#32])) (fun t =>
      Memory.read t.hteBuf 0 = 0xAB#8 && t.hteIdx = 1) = true := by decide
/-- R110's example. -/
theorem test_rxa_last_byte :
    answers (step (withMoves { receiving with hteNIn := 1 } [.rxa 0xABFFFFFF#32])) (fun t =>
      response t = (.ok, [0xAB#8]) && t.htePhase = .idle) = true := by decide

/-! ### Witnesses: for each obligation with hypotheses, data that meet them -/

theorem witness_DecodeEncodeRoundTrip :
    (Instr.transact (List.replicate 255 0x00#8) 0x00#8).wf = true ∧ (Instr.rspS0Reject 0x00#8).wf = true ∧
      (Instr.rspS1Reject 0xFF#8).wf = true :=
  ⟨test_wf_takes_longest_payload, by decide, by decide⟩

theorem witness_DecodedEncodingReencodes :
    decode (.key 0x7FF#11) = .ok (.rspIllegalStep67 1#1 0xFF#8) ∧
      decode (.command 0x10000100#32 [0x00#8]) = .ok (.transact [0x00#8] 0x00#8) := by decide

theorem witness_ReservedWordsFault :
    (withMoves base [.cmd 0x30000001#32 []]).faults = [] ∧
      0x30000001#32 &&& 0xFFFF0000#32 ≠ 0x10000000#32 ∧ 0x30000001#32 &&& 0xFFFF0000#32 ≠ 0x20000000#32 ∧
      0x30000001#32 ≠ 0x30000000#32 ∧ 0x30000001#32 ≠ 0x40000000#32 := by decide

theorem witness_StepRunsPresentedCommand :
    (withMoves base [.cmd 0x2000ABCD#32 []]).faults = [] ∧
      (withMoves base [.cmd 0x2000ABCD#32 []]).sched = .cmd 0x2000ABCD#32 [] :: [] ∧
      decode (.command 0x2000ABCD#32 []) = .ok (.publish 0xABCD#16) := by decide

theorem witness_StepRunsPendingRow :
    (withMoves (pending 1#3 0x42#8) [.irq]).faults = [] ∧ (withMoves (pending 1#3 0x42#8) [.irq]).irqEn = true ∧
      (withMoves (pending 1#3 0x42#8) [.irq]).irqPend = true ∧
      decode (.key ((pending 1#3 0x42#8).stepReg ++ (pending 1#3 0x42#8).rxb)) = .ok .rspS1Accept := by decide

theorem witness_FaultedMachineHasNoStep : ({ base with faults := [.txqbFull] } : State).faults ≠ [] := by decide

/-- The hypotheses hold for every kind of move; both sides of the enabling condition occur. -/
theorem witness_MoveStepsExactlyWhenEnabled :
    (∀ m ∈ [Move.cmd 0x40000000#32 [], .irq, .rxa 0#32, .takeA, .tick, .byteB 0#8, .takeB],
      (withMoves base [m]).faults = [] ∧ (withMoves base [m]).sched = m :: []) ∧
    answers (step (withMoves base [.irq])) (fun _ => true) = false ∧
    answers (step (withMoves base [.byteB 0x01#8])) (fun _ => true) = true := by decide

theorem witness_TransactStartsTransaction :
    base.faults = [] ∧ base.params.wf ∧ base.htePhase = .idle ∧ 1 ≤ [0x40#8].length ∧
      [0x40#8, 0x03#8, 0x00#8].length ≤ base.params.maxOut ∧ (0x08#8).toNat ≤ base.params.maxIn := by decide

/-- Each way to break the constraints, at its boundary. -/
theorem witness_TransactRejectsBadRequest :
    base.faults = [] ∧ base.htePhase = .idle ∧ ([] : List Byte).length = 0 ∧
      base.params.maxOut < (List.replicate 4 0x00#8).length ∧ base.params.maxIn < (0x09#8).toNat := by decide

theorem witness_HostOpsWhileBusyFault :
    Instr.irqEnable.isHostOp = true ∧ settling.faults = [] ∧ settling.htePhase ≠ .idle ∧ settling.htePhase ≠ .three ∧
      ({ base with htePhase := .three } : State).htePhase ≠ .idle := by decide

theorem witness_PublishWritesButtons :
    base.faults = [] ∧ base.htePhase = .idle ∧ base.irqEn = false ∧ ({ base with irqEn := true } : State).irqEn = true :=
  by decide

theorem witness_CritPublishWritesButtons :
    encode .irqDisable = .command 0x30000000#32 [] ∧ encode (.publish 0xDFFF#16) = .command 0x2000DFFF#32 [] ∧
      encode .irqEnable = .command 0x40000000#32 [] ∧
      (withMoves base (critPublish 0xDFFF#16)).faults = [] ∧ (withMoves base (critPublish 0xDFFF#16)).htePhase = .idle ∧
      (withMoves base (critPublish 0xDFFF#16)).sched = critPublish 0xDFFF#16 ++ [] ∧
      (withMoves { base with irqEn := true } [.cmd (0x2000#16 ++ 0xDFFF#16) []]).irqEn = true := by decide

theorem witness_IrqGateWrites : base.faults = [] ∧ base.htePhase = .idle := by decide

theorem witness_GateOpsFrame :
    (∃ t, exec .irqDisable base = .next t ∧ true = true) ∧ (∃ t, exec .irqEnable base = .next t ∧ true = true) ∧
      (∃ t, exec (.publish 0xABCD#16) base = .next t ∧ true = true) :=
  ⟨next_of_answers (p := fun _ => true) (by decide), next_of_answers (p := fun _ => true) (by decide),
    next_of_answers (p := fun _ => true) (by decide)⟩

/-- An accepted and a rejected TRANSACT. -/
theorem witness_TransactFrame :
    base.params.wf ∧
    (∃ t, exec (.transact [0x40#8] 0x03#8) base = .next t ∧ decide (t.htePhase ≠ base.htePhase) = true) ∧
    (∃ t, exec (.transact [] 0x03#8) base = .next t ∧ decide (t.htePhase = base.htePhase) = true) :=
  ⟨by decide, next_of_answers (by decide), next_of_answers (by decide)⟩

theorem witness_PendingBitWriters :
    (base.htePhase = .idle ∧ answers (exec .irqEnable base) (fun _ => true) = true ∧
      answers (exec .irqDisable base) (fun _ => true) = true) ∧
    ((withMoves base [.byteB 0x01#8]).faults = [] ∧ base.irqPend = false ∧ base.engbAwait = 0) ∧
    ((pending 0#3 0x01#8).irqPend = true ∧
      answers (step (withMoves (pending 0#3 0x01#8) [.irq])) (fun t => !t.irqPend) = true) ∧
    (nextMove (withMoves (pending 0#3 0x01#8) [.irq]) = .irq ∧ (pending 0#3 0x01#8).irqEn = true ∧
      answers (step (withMoves (pending 0#3 0x01#8) [.irq])) (fun t => t.faults.isEmpty) = true) ∧
    (nextMove (withMoves base [.cmd 0x40000000#32 []]) = .cmd 0x40000000#32 [] ∧
      answers (step (withMoves base [.cmd 0x40000000#32 []])) (fun _ => true) = true) := by decide

/-- A step that changes each shared register. -/
theorem witness_OnlyProcWritesSharedRegisters :
    answers (step (withMoves base [.cmd 0x2000ABCD#32 []])) (fun t => t.curButtons != base.curButtons) = true ∧
      answers (step (withMoves base [.cmd 0x40000000#32 []])) (fun t => t.irqEn != base.irqEn) = true := by decide

theorem witness_CriticalSectionExcludesHandler :
    base.irqEn = false ∧ Move.cmd 0x40000000#32 [] ∉ [Move.byteB 0x01#8, .cmd 0x2000ABCD#32 []] ∧
      answers (stepN 2 (withMoves base [.byteB 0x01#8, .cmd 0x2000ABCD#32 []])) (fun t => t.irqPend) = true := by decide

theorem witness_BusyFreezesSharedRegisters :
    (withMoves settling [.tick]).htePhase ≠ .idle ∧
      answers (step (withMoves settling [.tick])) (fun _ => true) = true := by decide

/-- Room for exactly two words, and one word too many. -/
theorem witness_rows_room_and_full :
    ({ base with txqb := [0#32, 0#32] } : State).faults = [] ∧
      ({ base with txqb := [0#32, 0#32] } : State).txqb.length + 2 ≤ base.params.txqbDepth ∧
      base.params.txqbDepth < ({ base with txqb := [0#32, 0#32, 0#32] } : State).txqb.length + 2 := by decide

theorem witness_StepZeroAcceptReplies :
    decode (.key (0#3 ++ 0x01#8)) = .ok .rspS0Accept ∧ base.faults = [] ∧ base.txqb.length + 2 ≤ base.params.txqbDepth :=
  by decide

theorem witness_StepZeroRejectReplies :
    0x00#8 ≠ 0x01#8 ∧ 0x02#8 ≠ 0x01#8 ∧ base.faults = [] ∧ base.txqb.length + 2 ≤ base.params.txqbDepth := by decide

theorem witness_StepOneAcceptReplies :
    decode (.key (1#3 ++ 0x42#8)) = .ok .rspS1Accept ∧ base.faults = [] ∧ base.txqb.length + 2 ≤ base.params.txqbDepth :=
  by decide

theorem witness_StepOneRejectReplies :
    0x41#8 ≠ 0x42#8 ∧ 0x43#8 ≠ 0x42#8 ∧ base.faults = [] ∧ base.txqb.length + 2 ≤ base.params.txqbDepth := by decide

theorem witness_ButtonStepsReply : base.faults = [] ∧ base.txqb.length + 2 ≤ base.params.txqbDepth := by decide

theorem witness_TerminalStepReplies : base.faults = [] ∧ base.txqb.length + 2 ≤ base.params.txqbDepth := by decide

theorem witness_IllegalStepsResynchronise : base.faults = [] ∧ base.txqb.length + 2 ≤ base.params.txqbDepth := by decide

theorem witness_ResponderRowsFrame :
    Instr.rspS0Accept.isHostOp = false ∧ answers (exec .rspS0Accept (pending 0#3 0x01#8)) (fun _ => true) = true ∧
      (withMoves (pending 0#3 0x01#8) [.irq]).sched = .irq :: [] ∧
      answers (step (withMoves (pending 0#3 0x01#8) [.irq])) (fun _ => true) = true := by decide

theorem witness_FullReplyQueueFaults :
    ({ pending 0#3 0x01#8 with txqb := [0#32, 0#32, 0#32], sched := [.irq] } : State).faults = [] ∧
      (pending 0#3 0x01#8).irqEn = true ∧ (pending 0#3 0x01#8).irqPend = true ∧
      (pending 0#3 0x01#8).params.txqbDepth < [0#32, 0#32, 0#32].length + 2 := by decide

theorem witness_HandlerFollowsStepTable :
    (withMoves (pending 7#3 0xFF#8) [.irq]).faults = [] ∧ (pending 7#3 0xFF#8).irqEn = true ∧
      (pending 7#3 0xFF#8).irqPend = true ∧
      (pending 7#3 0xFF#8).txqb.length + 2 ≤ (pending 7#3 0xFF#8).params.txqbDepth := by decide

theorem witness_ContinueFalseExactlyAtStepZero :
    (Instr.rspS4 0x00#8).isHostOp = false ∧ base.faults = [] ∧
      answers (exec (.rspS4 0x00#8) base) (fun t => t.faults == base.faults) = true := by decide

/-- Two states that differ in the HTE, the mask's history and `TXQB`, with the same step and byte. -/
theorem witness_HandlerIsPure :
    answers (step (withMoves (pending 2#3 0x00#8) [.irq])) (fun t => t.faults = []) = true ∧
      answers (step (withMoves { pending 2#3 0x00#8 with htePhase := .settle, txqb := [0#32] } [.irq, .tick]))
        (fun t => t.faults = []) = true ∧
      (withMoves (pending 2#3 0x00#8) [.irq]).stepReg = 2#3 := by decide

theorem witness_OneHandlerStepPerByte :
    answers (stepN 4 (withMoves { base with irqEn := true } [.byteB 0x01#8, .irq, .byteB 0x42#8, .tick]))
      (fun t => t.faults = []) = true := by decide

theorem witness_CompleteReplySequence :
    (withMoves { base with irqEn := true } (serveBytes [0x01#8, 0x42#8, 0x00#8, 0x00#8, 0x00#8])).faults = [] ∧
      ({ base with irqEn := true } : State).irqEn = true ∧ base.irqPend = false ∧ base.engbAwait = 0 ∧
      base.stepReg = 0#3 ∧ base.txqb = [] ∧ 2 ≤ base.params.txqbDepth ∧
      (withMoves base (serveBytes [0x01#8, 0x42#8, 0x00#8, 0x00#8, 0x00#8])).sched =
        serveBytes [0x01#8, 0x42#8, 0x00#8, 0x00#8, 0x00#8] ++ [] := by decide

/-- Each clause: `STEP` 1; `STEP` 2 with two bytes, then with three; `STEP` 4 with one. -/
theorem witness_AbortSpoilsNextAttempt :
    base.faults = [] ∧ base.irqPend = false ∧ base.engbAwait = 0 ∧ base.txqb = [] ∧ 2 ≤ base.params.txqbDepth ∧
      ({ base with stepReg := 1#3 } : State).stepReg = 1#3 ∧
      2 ≤ (2#3).toNat ∧ (2#3).toNat ≤ 4 ∧ [0x01#8, 0x42#8].length < 5 - (2#3).toNat ∧
      [0x01#8, 0x42#8, 0x00#8].length = 5 - (2#3).toNat ∧ (4#3).toNat ≤ 4 ∧ [0x01#8].length = 5 - (4#3).toNat := by
  decide

theorem witness_PublishedValueIsRead :
    ({ base with stepReg := 2#3 } : State).stepReg = 2#3 ∧ base.faults = [] ∧ base.htePhase = .idle ∧
      base.irqPend = false ∧ base.engbAwait = 0 ∧ base.txqb = [] ∧ 2 ≤ base.params.txqbDepth ∧
      (withMoves base (critPublish 0xDFFF#16 ++ serveBytes [0x00#8, 0x00#8])).sched =
        critPublish 0xDFFF#16 ++ serveBytes [0x00#8, 0x00#8] ++ [] := by decide

theorem witness_TornButtonPairAdmitted :
    ({ base with stepReg := 2#3, irqEn := true } : State).stepReg = 2#3 ∧ base.faults = [] ∧ base.htePhase = .idle ∧
      base.irqPend = false ∧ base.engbAwait = 0 ∧ base.txqb = [] ∧ 2 ≤ base.params.txqbDepth ∧
      (withMoves base (serveBytes [0x00#8] ++ critPublish 0x9F7E#16 ++ serveBytes [0x00#8])).sched =
        serveBytes [0x00#8] ++ critPublish 0x9F7E#16 ++ serveBytes [0x00#8] ++ [] := by decide

theorem witness_ByteBLatchesByte :
    (withMoves base [.byteB 0x01#8]).faults = [] ∧ (withMoves base [.byteB 0x01#8]).sched = .byteB 0x01#8 :: [] ∧
      base.irqPend = false ∧ base.engbAwait = 0 := by decide

theorem witness_EnginesTakeOldestWord :
    ((withMoves settling [.takeA]).faults = [] ∧ settling.engaRun = true ∧
      settling.txqa = 0x00000008#32 :: [0x40000000#32]) ∧
    (withMoves { base with txqb := [1#32, 2#32] } [.takeB]).txqb = 1#32 :: [2#32] := by decide

/-- Each clause at its last value: the 39th of 40 settle ticks and the 63rd of 64 timeout ticks. -/
theorem witness_TicksCount :
    (withMoves base [.tick]).htePhase = .idle ∧ ({ settling with hteTcnt := 38 } : State).hteTcnt + 1 < settling.hteSettle ∧
      ({ receiving with hteTcnt := 62 } : State).hteTcnt + 1 < 64 ∧ receiving.htePhase = .recv ∧
      settling.htePhase = .settle ∧ settling.faults = [] := by decide

theorem witness_RxWordsQueueDuringSettle :
    ({ settling with rxqa := [0#32] } : State).rxqa.length < settling.params.rxqaDepth ∧ settling.engaRun = true ∧
      settling.htePhase = .settle ∧ settling.faults = [] := by decide

/-- Too few queued words; exactly enough; and `HTE_NIN = 0`. -/
theorem witness_SettleEndDrainsQueue :
    settling.htePhase = .settle ∧ settling.hteSettle ≤ ({ settling with hteTcnt := 39 } : State).hteTcnt + 1 ∧
      settling.hteIdx = 0 ∧ Memory.wf settling.hteBuf = true ∧ Memory.wf settling.rspData = true ∧
      ({ settling with rxqa := [1#32, 2#32] } : State).rxqa.length < settling.hteNIn ∧
      ({ settling with hteNIn := 2 } : State).hteNIn ≤ [1#32, 2#32].length ∧
      ({ settling with hteNIn := 0 } : State).hteNIn ≤ settling.rxqa.length := by decide

theorem witness_ReceiveAcceptsByte :
    receiving.faults = [] ∧ receiving.engaRun = true ∧ receiving.htePhase = .recv ∧ receiving.rxqa = [] ∧
      1 ≤ receiving.params.rxqaDepth ∧ receiving.hteIdx + 1 < receiving.hteNIn ∧ Memory.wf receiving.hteBuf = true := by
  decide

theorem witness_LastByteCompletesOk :
    (({ receiving with hteIdx := 2 } : State).hteIdx + 1 = receiving.hteNIn ∧ receiving.engaRun = true ∧
      receiving.htePhase = .recv ∧ receiving.rxqa = [] ∧ 1 ≤ receiving.params.rxqaDepth ∧
      Memory.wf receiving.hteBuf = true ∧ Memory.wf receiving.rspData = true) ∧
    (receiving.htePhase ≠ .idle ∧ receiving.rspStatus ≠ .ok ∧
      answers (step (withMoves { receiving with hteIdx := 2 } [.rxa 0xFF000000#32]))
        (fun t => t.htePhase = .idle && t.rspStatus = .ok) = true) := by decide

theorem witness_ReceiveTickTimesOut :
    ({ receiving with hteTcnt := 63 } : State).htePhase = .recv ∧ 64 ≤ ({ receiving with hteTcnt := 63 } : State).hteTcnt + 1 ∧
      receiving.faults = [] ∧ receiving.rspStatus ≠ .timeout ∧
      answers (step (withMoves { receiving with hteTcnt := 63 } [.tick])) (fun t => t.rspStatus = .timeout) = true := by
  decide

theorem witness_OnlyTransactStartsTransaction :
    (base.htePhase = .idle ∧
      answers (step (withMoves base [.cmd 0x10000103#32 [0x40#8]])) (fun t => t.htePhase != .idle) = true) ∧
    (receiving.faults = [] ∧ receiving.htePhase = .recv ∧ 64 ≤ ({ receiving with hteTcnt := 63 } : State).hteTcnt + 1) := by
  decide

theorem witness_RxLowBitsIgnored :
    (receiving.faults = [] ∧ receiving.htePhase = .recv ∧ receiving.rxqa = [] ∧ receiving.hteIdx < receiving.hteNIn ∧
      receiving.engaRun = true ∧ 1 ≤ receiving.params.rxqaDepth ∧ Memory.wf receiving.hteBuf = true) ∧
    0xAB123456#32 ≠ 0xAB000000#32 ∧ (0xAB123456#32).toNat / 2 ^ 24 = (0xAB000000#32).toNat / 2 ^ 24 ∧
    settling.htePhase = .settle ∧ settling.hteSettle ≤ ({ settling with hteTcnt := 39 } : State).hteTcnt + 1 ∧
    [0xAB123456#32].map (fun w => w.toNat / 2 ^ 24) = [0xAB000000#32].map (fun w => w.toNat / 2 ^ 24) := by decide

theorem witness_SidesShareNothing :
    isHteMove .tick = true ∧ answers (takeMove .tick settling) (fun _ => true) = true ∧
      isResponderMove .irq = true ∧ answers (takeMove .irq (pending 0#3 0x01#8)) (fun _ => true) = true := by decide

/-- A transaction and a pending byte together. -/
def both : State := { settling with irqEn := true, irqPend := true, rxb := 0x01#8, engbAwait := 2 }

theorem witness_HteAndResponderCommute :
    both.faults = [] ∧ isHteMove .tick = true ∧ isResponderMove .irq = true ∧
      answers (takeMove .tick both) (fun _ => true) = true ∧ answers (takeMove .irq both) (fun _ => true) = true := by
  decide

/-- Two idle cores that differ in `RXQA` and the last result; and two agreeing states in a transaction. -/
theorem witness_TransactionIsolation :
    (base.htePhase = .idle ∧
      ({ base with rxqa := [7#32], rspStatus := .ok, rspLen := 1, rspData := [(0, 5#8)] } : State).htePhase = .idle ∧
      base.params.wf ∧ 1 ≤ [0x40#8].length ∧ [0x40#8].length ≤ base.params.maxOut ∧
      (0x03#8).toNat ≤ base.params.maxIn ∧ Memory.wf base.hteBuf = true ∧ Memory.wf [(0, 5#8)] = true) ∧
    (HteAgree settling { settling with rspStatus := .ok, stepReg := 3#3 } ∧ settling.htePhase ≠ .idle ∧
      isHteMove .tick = true ∧ answers (takeMove .tick settling) (fun _ => true) = true) ∧
    (HteAgree both settling ∧ isResponderMove .irq = true ∧ answers (takeMove .irq both) (fun _ => true) = true) := by
  refine ⟨by decide, ⟨?_, by decide⟩, ?_, by decide⟩ <;> unfold HteAgree <;> decide

/-- A transaction with no incoming byte and one tick of its settle wait left, ended by that tick. -/
theorem witness_TransactionDurationBounded :
    (base.params.wf ∧ base.htePhase = .idle ∧
      answers (exec (.transact [0x40#8] 0x03#8) base) (fun t => t.htePhase = .settle) = true) ∧
    CoreInv { settling with hteNIn := 0, hteTcnt := 39 } ∧ settling.htePhase ≠ .idle ∧ ProcBlocked [.tick] ∧
    answers (stepN 1 (withMoves { settling with hteNIn := 0, hteTcnt := 39 } [.tick])) (fun _ => true) = true ∧
    ticksLeft { settling with hteNIn := 0, hteTcnt := 39 } ≤ [Move.tick].count .tick := by
  refine ⟨by decide, by decide, by decide, ?_, by decide, by decide⟩
  intro m hm w p
  simp only [List.mem_singleton] at hm
  simp [hm]

theorem witness_SettleWaitIsLowerBound :
    settling.htePhase = .settle ∧ ProcBlocked [.tick] ∧
      answers (stepN 1 (withMoves { settling with hteTcnt := 38 } [.tick])) (fun _ => true) = true ∧
      ({ settling with hteTcnt := 38 } : State).hteTcnt + [Move.tick].count .tick < settling.hteSettle := by
  refine ⟨by decide, ?_, by decide, by decide⟩
  intro m hm w p
  simp only [List.mem_singleton] at hm
  simp [hm]

/-- A run of ticks: the settle wait of a transaction with no incoming byte, then IDLE for ever. -/
def tickRun (n : Nat) : State :=
  if n < 40 then { settling with hteNIn := 0, hteTcnt := n }
  else
    { settling with
      hteNIn := 0, hteTcnt := 0, htePhase := .idle, engaRun := false, rspStatus := .ok, rspLen := 0 }

theorem witness_FairTicksEndTransactions :
    IsRun (fun _ => .tick) tickRun ∧ TicksKeepComing (fun _ => .tick) ∧ CoreInv (tickRun 0) ∧
      (tickRun 0).htePhase ≠ .idle := by
  refine ⟨?_, fun n => ⟨n, Nat.le_refl n, rfl⟩, by decide, by decide⟩
  intro n
  by_cases h1 : n + 1 < 40
  · have h0 : n < 40 := by omega
    simp only [tickRun, h0, h1, if_true]
    rw [step_cons rfl rfl]
    exact congrArg Host.Outcome.next (if_neg (show ¬ 40 ≤ n + 1 by omega))
  · by_cases h2 : n < 40
    · have : n = 39 := by omega
      subst this
      rfl
    · simp only [tickRun, h1, h2, if_false]
      rfl

/-- A run whose first move handles the pending byte, and ticks from then on. -/
def handlerRun (n : Nat) : State :=
  if n = 0 then pending 0#3 0x01#8
  else
    { pending 0#3 0x01#8 with
      txqb := [0xFFFFFFFF#32, 0x00000041#32], engbAwait := 0, stepReg := 1#3, irqPend := false }

theorem witness_FairHandlerServesByte :
    IsRun (fun n => if n = 0 then .irq else .tick) handlerRun ∧
      HandlerFair (fun n => if n = 0 then .irq else .tick) handlerRun ∧ (handlerRun 0).irqPend = true ∧
      ∀ n, (handlerRun n).irqEn = true := by
  refine ⟨?_, ?_, by decide, ?_⟩
  · intro n
    by_cases h : n = 0
    · subst h
      obtain ⟨t, ht, hp⟩ := next_of_answers (r := step { handlerRun 0 with sched := [.irq] })
        (p := fun t => t == handlerRun 1) (by decide)
      rw [beq_iff_eq] at hp
      exact ht.trans (by rw [hp])
    · simp only [handlerRun, h, Nat.succ_ne_zero, if_false]
      rfl
  · intro n h
    have := h (n + 1) (Nat.le_succ n)
    simp [handlerEnabled, handlerRun] at this
  · intro n
    unfold handlerRun
    split <;> rfl

theorem witness_StepKeepsCoreInv :
    CoreInv base ∧ CoreInv receiving ∧ answers (step (withMoves base [.tick])) (fun _ => true) = true ∧
      answers (step (withMoves receiving [.rxa 0xFF000000#32])) (fun _ => true) = true :=
  ⟨by decide, by decide, by decide, by decide⟩

theorem witness_ConstantsNeverWritten :
    answers (step (withMoves base [.cmd 0x10000103#32 [0x40#8]])) (fun _ => true) = true := by decide

theorem witness_FaultRecordsOnlyItsCode :
    answers (step (withMoves settling [.cmd 0x30000000#32 []])) (fun t => t.faults != []) = true := by decide

end Sys2Proof.Tests
end

section
/-! PROOFS. The HANDLER step of the responder (spec 41_slave_responder.md): which row runs, the two words it pushes, and what they depend on. -/

namespace Sys2Proof.Machine

/-! ### What a HANDLER step depends on -/

/-- A row reads nothing of the state but `CUR_BUTTONS`. -/
theorem rowOf_congr (i : Instr) {s u : State} (h : s.curButtons = u.curButtons) : rowOf i s = rowOf i u := by
  cases i <;> simp [rowOf, h]

/-- The row a key decodes to reads `CUR_BUTTONS` at steps 2 and 3 only. -/
theorem rowOf_eq_of_decodeKey {st : BitVec 3} {b : Byte} {i : Instr} (hi : decodeKey (st ++ b) = .ok i) {s u : State}
    (h : st = 2#3 ∨ st = 3#3 → s.curButtons = u.curButtons) : rowOf i s = rowOf i u := by
  by_cases hb : st = 2#3 ∨ st = 3#3
  · exact rowOf_congr i (h hb)
  · obtain ⟨h2, h3⟩ := not_or.mp hb
    simp only [decodeKey_append, if_neg h2, if_neg h3] at hi
    repeat' split at hi
    all_goals cases hi; rfl

/-- A scheduled HANDLER step that does not fault pushes the two words of its key's row and moves `STEP` to the
row's next step. -/
theorem step_irq_pushes_row {s t : State} {rest : List Move} (hs : s.sched = .irq :: rest) (h : step s = .next t)
    (ht : t.faults = []) :
    ∃ i, decodeKey (s.stepReg ++ s.rxb) = .ok i ∧
      t.txqb = s.txqb ++ [continueWord (rowOf i s).1, busbTxPack (rowOf i s).2.1] ∧
      t.stepReg = (rowOf i s).2.2 := by
  rw [step_cons (step_next h).1 hs] at h
  obtain ⟨-, -, i, hi, hrow, hexec⟩ := takeInterrupt_next h
  have hbuttons : rowOf i { s with sched := rest } = rowOf i s := rowOf_congr i rfl
  refine ⟨i, hi, ?_⟩
  rcases exec_row_next hrow hexec with ⟨-, rfl⟩ | ⟨-, c, r, n, hcrn, rfl⟩
  · exact absurd ht (insertFault_ne_nil _ _)
  · rw [hbuttons] at hcrn
    simp [← hcrn]

/-- Settles O33: equal keys decode to one row, and a row reads at most `CUR_BUTTONS`. -/
theorem handlerIsPure : Obligations.HandlerIsPure := by
  intro s₁ s₂ t₁ t₂ rest₁ rest₂ hs₁ hs₂ h₁ h₂ hf₁ hf₂ hstep hrxb hbuttons
  obtain ⟨i, hi, hq₁, hn₁⟩ := step_irq_pushes_row hs₁ h₁ hf₁
  obtain ⟨j, hj, hq₂, hn₂⟩ := step_irq_pushes_row hs₂ h₂ hf₂
  have hij : j = i := by
    rw [← hstep, ← hrxb, hi] at hj
    exact (Except.ok.inj hj).symm
  have hrow : rowOf j s₂ = rowOf i s₁ := by rw [hij, rowOf_eq_of_decodeKey hi hbuttons]
  rw [hrow] at hq₂ hn₂
  exact ⟨_, _, hq₁, hq₂, hn₁.trans hn₂.symm⟩

/-! ### The rows that accept, report the buttons and end the reply -/

/-- The reply word of a register's low byte, as a number. -/
theorem busbTxPack_lowByte (v : Half) : busbTxPack (lowByte v) = BitVec.ofNat 32 (v.toNat % 256) := by
  simp [busbTxPack_eq, lowByte]

/-- The reply word of a register's high byte, as a number. -/
theorem busbTxPack_highByte (v : Half) : busbTxPack (highByte v) = BitVec.ofNat 32 (v.toNat / 256) := by
  have hv : v.toNat / 256 < 256 := by omega
  simp [busbTxPack_eq, highByte, Nat.shiftRight_eq_div_pow, Nat.mod_eq_of_lt hv]

/-- Settles O22: the decoder's table at step 0, and the row's outcomes with `IDENT`'s low byte as the reply. -/
theorem stepZeroAcceptReplies : Obligations.StepZeroAcceptReplies := by
  refine ⟨fun b => ?_, fun s hf => ?_⟩
  · rw [decode, decodeKey_append, if_pos rfl]
    split
    · exact iff_of_true rfl ‹_›
    · exact iff_of_false nofun ‹_›
  · have hreply : busbTxPack (lowByte s.ident) = 0x00000041#32 := busbTxPack_lowByte 0x5A41#16
    rw [← hreply]
    exact row_outcomes (i := .rspS0Accept) rfl hf

/-- Settles O24: the decoder's table at step 1, and the row's outcomes with `IDENT`'s high byte as the reply. -/
theorem stepOneAcceptReplies : Obligations.StepOneAcceptReplies := by
  refine ⟨fun b => ?_, fun s hf => ?_⟩
  · rw [decode, decodeKey_append, if_neg (by decide), if_pos rfl]
    split
    · exact iff_of_true rfl ‹_›
    · exact iff_of_false nofun ‹_›
  · have hreply : busbTxPack (highByte s.ident) = 0x0000005A#32 := busbTxPack_highByte 0x5A41#16
    rw [← hreply]
    exact row_outcomes (i := .rspS1Accept) rfl hf

/-- Settles O26: the outcomes of both rows, with the button bytes as numbers. -/
theorem buttonStepsReply : Obligations.ButtonStepsReply := by
  refine fun b => ⟨decodeKey_append 2#3 b, decodeKey_append 3#3 b, fun s hf => ?_⟩
  obtain ⟨room₂, full₂⟩ := row_outcomes (i := .rspS2 b) rfl hf
  obtain ⟨room₃, full₃⟩ := row_outcomes (i := .rspS3 b) rfl hf
  rw [← busbTxPack_lowByte, ← busbTxPack_highByte]
  exact ⟨fun h => ⟨room₂ h, room₃ h⟩, fun h => ⟨full₂ h, full₃ h⟩⟩

/-- Settles O27: the row's outcomes, with both words zero. -/
theorem terminalStepReplies : Obligations.TerminalStepReplies :=
  fun b => ⟨decodeKey_append 4#3 b, fun _ hf => row_outcomes (i := .rspS4 b) rfl hf⟩

end Sys2Proof.Machine
end

section
/-! PROOFS. The bus-B interrupt (spec 60_exceptions.md R197, R200): who writes its enable and its pending bit, and what taking it leaves unchanged. -/

namespace Sys2Proof.Machine

/-! ### The frame of a HANDLER step -/

/-- A fault leaves everything but `FAULTS` (R14). -/
theorem addFault_frame (s : State) (code : FaultCode) :
    SameHte s (s.addFault code) ∧ SameResponse s (s.addFault code) ∧ SameEngineA s (s.addFault code) ∧
      SameEngineB s (s.addFault code) ∧ SameShared s (s.addFault code) ∧ SameOwn s (s.addFault code) ∧
      (s.addFault code).stepReg = s.stepReg := by
  simp [SameHte, SameResponse, SameEngineA, SameEngineB, SameShared, SameOwn]

/-- The writes of a HANDLER step stay inside the responder (R141, R200). -/
theorem reply_frame (s : State) (cont : Bool) (r : Byte) (nextStep : BitVec 3) :
    SameHte s (s.reply cont r nextStep) ∧ SameResponse s (s.reply cont r nextStep) ∧
      SameEngineA s (s.reply cont r nextStep) ∧ SameShared s (s.reply cont r nextStep) ∧
      SameOwn s (s.reply cont r nextStep) := by
  simp [SameHte, SameResponse, SameEngineA, SameShared, SameOwn]

/-- What a row leaves unchanged, the overflow fault included (R154, R200). -/
theorem exec_row_frame {i : Instr} (hi : i.isHostOp = false) {s t : State} (h : exec i s = .next t) :
    SameHte s t ∧ SameResponse s t ∧ SameEngineA s t ∧ SameShared s t ∧ SameOwn s t ∧ t.rxb = s.rxb ∧
      (t.faults = s.faults ∨ (SameEngineB s t ∧ t.stepReg = s.stepReg)) := by
  rcases exec_row_next hi h with ⟨-, rfl⟩ | ⟨-, c, r, n, -, rfl⟩
  · obtain ⟨hte, rsp, engA, engB, shared, own, stepReg⟩ := addFault_frame s .txqbFull
    exact ⟨hte, rsp, engA, shared, own, rfl, .inr ⟨engB, stepReg⟩⟩
  · obtain ⟨hte, rsp, engA, shared, own⟩ := reply_frame s c r n
    exact ⟨hte, rsp, engA, shared, own, rfl, .inl rfl⟩

/-- Settles O29: the frame of a row; taking the interrupt runs one row on the state whose move is taken off the
schedule. -/
theorem responderRowsFrame : Obligations.ResponderRowsFrame := by
  refine ⟨fun s t i hi h => exec_row_frame hi h, fun s t rest hs h => ?_⟩
  rw [step_cons (step_next h).1 hs] at h
  obtain ⟨hen, -, i, -, hrow, hexec⟩ := takeInterrupt_next h
  obtain ⟨hte, rsp, engA, ⟨buttons, irqEn⟩, ⟨-, sched, -⟩, rxb, -⟩ := exec_row_frame hrow hexec
  exact ⟨hte, rsp, engA, buttons, rxb, hen, irqEn.trans hen, sched⟩

/-! ### Who writes the pending bit -/

/-- No host operation writes `IRQ_PEND`. -/
theorem exec_hostOp_irqPend {i : Instr} (hi : i.isHostOp = true) {s t : State} (h : exec i s = .next t) :
    t.irqPend = s.irqPend := by
  cases i with
  | transact out nIn =>
    rw [execTransact_eq] at h
    cases h
    split
    · rfl
    split
    · split
      · rfl
      · rename_i hgood
        rw [startSettle_eq (one_le_of_not_bad hgood).1]
        rfl
    · rfl
  | publish v =>
    rw [execPublish_eq] at h
    cases h
    split
    · split <;> rfl
    · rfl
  | irqDisable => rw [execIrqDisable_eq] at h; cases h; split <;> rfl
  | irqEnable => rw [execIrqEnable_eq] at h; cases h; split <;> rfl
  | _ => cases hi

/-- No command word writes `IRQ_PEND`, reserved words included. -/
theorem presentCommand_irqPend {w : Word} {payload : List Byte} {s t : State}
    (h : presentCommand w payload s = .next t) : t.irqPend = s.irqPend := by
  rcases presentCommand_next h with ⟨i, hi, hexec⟩ | ⟨-, rfl⟩
  · exact exec_hostOp_irqPend (decodeCommand_isHostOp hi) hexec
  · rfl

/-- RXA_PUSH does not write `IRQ_PEND`. -/
theorem evRxa_irqPend {w : Word} {s t : State} (h : evRxa w s = .next t) : t.irqPend = s.irqPend := by
  obtain ⟨-, -, ⟨-, rfl⟩ | ⟨-, rfl⟩⟩ := evRxa_next h
  · exact (drain_side _).irqPend
  · rfl

/-- TICK does not write `IRQ_PEND`. -/
theorem evTick_irqPend {s t : State} (h : evTick s = .next t) : t.irqPend = s.irqPend := by
  rcases evTick_next h with ⟨-, rfl⟩ | ⟨-, rfl⟩ | ⟨-, rfl⟩ | ⟨-, rfl⟩
  · rfl
  · exact (tickSettle_side s).irqPend
  · exact (tickRecv_side s).irqPend
  · rfl

/-- `t` is `s` after the two pushes of a HANDLER step and with `IRQ_PEND` cleared. -/
def PushedAndCleared (s t : State) : Prop := t.irqPend = false ∧ ∃ c r, t.txqb = s.txqb ++ [c, r]

/-- A HANDLER step records the overflow fault, or pushes two words and clears `IRQ_PEND` (R141, R154). -/
theorem takeInterrupt_faults_or_pushes {s t : State} (h : takeInterrupt s = .next t) :
    t = s.addFault .txqbFull ∨ PushedAndCleared s t := by
  obtain ⟨-, -, i, -, hrow, hexec⟩ := takeInterrupt_next h
  rcases exec_row_next hrow hexec with ⟨-, rfl⟩ | ⟨-, c, r, n, -, rfl⟩
  · exact .inl rfl
  · exact .inr ⟨rfl, continueWord c, busbTxPack r, by simp [reply_eq_answered, answered]⟩

/-- What a move does to `IRQ_PEND`: it keeps it, but for BYTE_B, which sets it, and the HANDLER, which clears it
with its two pushes. -/
theorem takeMove_irqPend {m : Move} {s t : State} (h : takeMove m s = .next t) :
    t.irqPend = s.irqPend ∨ (∃ b, m = .byteB b ∧ t.irqPend = true) ∨ (m = .irq ∧ PushedAndCleared s t) := by
  cases m with
  | cmd w payload => exact .inl (presentCommand_irqPend h)
  | irq =>
    rcases takeInterrupt_faults_or_pushes h with rfl | hpushed
    · exact .inl rfl
    · exact .inr (.inr ⟨rfl, hpushed⟩)
  | rxa w => exact .inl (evRxa_irqPend h)
  | takeA =>
    obtain ⟨-, w, q, -, rfl⟩ := evTakeA_next h
    exact .inl rfl
  | tick => exact .inl (evTick_irqPend h)
  | byteB b =>
    obtain ⟨-, -, rfl⟩ := evByteB_next h
    exact .inr (.inl ⟨b, rfl, rfl⟩)
  | takeB =>
    obtain ⟨w, q, -, rfl⟩ := evTakeB_next h
    exact .inl rfl

/-- What a step does to `IRQ_PEND`, free moves included. -/
theorem step_irqPend {s t : State} (h : step s = .next t) :
    t.irqPend = s.irqPend ∨ (∃ b, nextMove s = .byteB b ∧ t.irqPend = true) ∨
      (nextMove s = .irq ∧ PushedAndCleared s t) := by
  obtain ⟨-, hmove | ⟨-, rfl⟩⟩ := step_next h
  · simpa [PushedAndCleared] using takeMove_irqPend hmove
  · exact .inl (popped_irqPend s)

/-- A HANDLER step with the interrupt enabled and pending is taken: no agent's lack of a step hides it. -/
theorem step_takes_enabled_irq {s t : State} (h : step s = .next t) (hm : nextMove s = .irq) (hen : s.irqEn = true)
    (hpend : s.irqPend = true) : takeInterrupt s.popped = .next t := by
  obtain ⟨-, hmove⟩ := step_next h
  rw [hm] at hmove
  rcases hmove with htaken | ⟨⟨-, r, hrefused⟩, -⟩
  · exact htaken
  · obtain ⟨i, -, -, hrun⟩ :=
      takeInterrupt_runs_row ((popped_irqEn s).trans hen) ((popped_irqPend s).trans hpend)
    obtain ⟨u, hu⟩ := exec_answers i s.popped
    cases hrefused.symm.trans (hrun.trans hu)

/-- BYTE_B where it is enabled, whatever `IRQ_EN` says (R151). -/
theorem evByteB_enabled (b : Byte) {s : State} (hpend : s.irqPend = false) (hawait : s.engbAwait = 0) :
    evByteB b s = .next { s with rxb := b, irqPend := true, engbAwait := 2 } :=
  if_pos (by simp [byteBEnabled, hpend, hawait])

/-- Settles O18: the gate's two writes, BYTE_B's effect, and the inversion of a step for `IRQ_PEND`. -/
theorem pendingBitWriters : Obligations.PendingBitWriters := by
  refine ⟨fun s t hidle h => ?_, fun s t hidle h => ?_, fun s b rest hf hs hpend hawait => ?_,
    fun s t h hset hclear => ?_, fun s t h hm hen hpend hf => ?_, fun s t w payload h hm => ?_⟩
  · rw [execIrqEnable_eq, if_pos hidle] at h
    cases h
    rfl
  · rw [execIrqDisable_eq, if_pos hidle] at h
    cases h
    exact ⟨rfl, rfl, rfl⟩
  · exact ⟨_, (step_cons hf hs).trans (evByteB_enabled b hpend hawait), rfl, rfl⟩
  · rcases step_irqPend h with hsame | ⟨b, -, hsets⟩ | ⟨hirq, -, hpushes⟩
    · simp [hsame, hset] at hclear
    · simp [hsets] at hclear
    · exact ⟨hirq, hpushes⟩
  · rcases takeInterrupt_faults_or_pushes (step_takes_enabled_irq h hm hen hpend) with rfl | hpushed
    · exact absurd hf (insertFault_ne_nil _ _)
    · simpa [PushedAndCleared] using hpushed
  · rcases step_irqPend h with hsame | ⟨b, hbyte, -⟩ | ⟨hirq, -⟩
    · exact hsame
    · cases hm.symm.trans hbyte
    · cases hm.symm.trans hirq

end Sys2Proof.Machine
end

section
/-! PROOFS. The encoding (spec 30_encoding.md sections 1 and 4): the decoder and the encoder are inverse to each other, and the responder's table is total. -/

namespace Sys2Proof

/-! ### Decoding an encoding -/

theorem decode_encode_transact {out : List Byte} (h : out.length < 256) (nIn : Byte) :
    decode (encode (.transact out nIn)) = .ok (.transact out nIn) := by
  obtain ⟨hupper, hnOut, hnIn⟩ := fields_append 0x1000#16 (BitVec.ofNat 8 out.length) nIn
  have hlength : out.length = (BitVec.ofNat 8 out.length).toNat := by simp; omega
  refine (decodeCommand_upper _ out).trans ?_
  rw [← hnOut] at hlength
  refine (if_pos hupper).trans ((if_pos hlength).trans ?_)
  exact congrArg (fun n => Except.ok (Instr.transact out n)) hnIn

theorem decode_encode_publish (v : Half) : decode (encode (.publish v)) = .ok (.publish v) := by
  obtain ⟨hupper, hvalue⟩ := value_append 0x2000#16 v
  refine (decodeCommand_upper _ []).trans ?_
  rw [if_neg (hupper ▸ by decide)]
  refine (if_pos hupper).trans ?_
  exact congrArg (fun x => Except.ok (Instr.publish x)) hvalue

/-- The last row keeps the low bit of the step, 6 or 7. -/
theorem decode_encode_illegalStep67 (lowBit : BitVec 1) (b : Byte) :
    decode (encode (.rspIllegalStep67 lowBit b)) = .ok (.rspIllegalStep67 lowBit b) := by
  refine (decodeKey_append (0b11#2 ++ lowBit) b).trans ?_
  have hbit : lowBit = 0#1 ∨ lowBit = 1#1 := by decide +revert
  rcases hbit with rfl | rfl <;> rfl

/-- Settles O1: by the operation; the decoder's tests see the fields that the encoder wrote, and the reject rows
leave the accepted byte to the row before them. -/
theorem decodeEncodeRoundTrip : Obligations.DecodeEncodeRoundTrip := by
  intro i hwf
  cases i with
  | transact out nIn => exact decode_encode_transact (of_decide_eq_true hwf) nIn
  | publish v => exact decode_encode_publish v
  | irqDisable => rfl
  | irqEnable => rfl
  | rspS0Accept => exact decodeKey_append 0#3 0x01#8
  | rspS0Reject b => exact (decodeKey_append 0#3 b).trans (if_neg (bne_iff_ne.mp hwf))
  | rspS1Accept => exact decodeKey_append 1#3 0x42#8
  | rspS1Reject b => exact (decodeKey_append 1#3 b).trans (if_neg (bne_iff_ne.mp hwf))
  | rspS2 b => exact decodeKey_append 2#3 b
  | rspS3 b => exact decodeKey_append 3#3 b
  | rspS4 b => exact decodeKey_append 4#3 b
  | rspIllegalStep5 b => exact decodeKey_append 5#3 b
  | rspIllegalStep67 lowBit b => exact decode_encode_illegalStep67 lowBit b

/-! ### Encoding what was decoded -/

theorem withoutPayload_eq_ok {payload : List Byte} {i j : Instr} (h : withoutPayload payload i = .ok j) :
    payload = [] ∧ i = j := by
  unfold withoutPayload at h
  split at h
  · exact ⟨‹_›, Except.ok.inj h⟩
  · cases h

theorem word_eq_fields (w : Word) : w = w.extractLsb' 16 16 ++ fieldNOut w ++ fieldNIn w := by
  have hparts : w = w.extractLsb' 16 16 ++ (fieldNOut w ++ fieldNIn w) := by
    rw [← value_eq_append]
    exact word_eq_append w
  exact hparts.trans BitVec.append_assoc.symm

/-- What the command decoder reads encodes to the word and the payload it was read from. -/
theorem encode_of_decodeCommand {w : Word} {payload : List Byte} {i : Instr} (h : decodeCommand w payload = .ok i) :
    encode i = .command w payload ∧ i.wf = true := by
  rw [decodeCommand_upper] at h
  split at h
  · rename_i hupper
    split at h
    · rename_i hlength
      cases h
      have hnOut : BitVec.ofNat 8 payload.length = fieldNOut w := by
        rw [hlength, BitVec.ofNat_toNat, BitVec.setWidth_eq]
      have hword : 0x1000#16 ++ BitVec.ofNat 8 payload.length ++ fieldNIn w = w := by
        rw [hnOut, ← hupper]
        exact (word_eq_fields w).symm
      exact ⟨congrArg (Encoded.command · payload) hword, decide_eq_true (hlength ▸ (fieldNOut w).isLt)⟩
    · cases h
  · split at h
    · rename_i hupper
      obtain ⟨rfl, rfl⟩ := withoutPayload_eq_ok h
      have hword : 0x2000#16 ++ fieldValue w = w := by
        rw [← hupper]
        exact (word_eq_append w).symm
      exact ⟨congrArg (Encoded.command · []) hword, rfl⟩
    · split at h
      · subst w
        obtain ⟨rfl, rfl⟩ := withoutPayload_eq_ok h
        exact ⟨rfl, rfl⟩
      · split at h
        · subst w
          obtain ⟨rfl, rfl⟩ := withoutPayload_eq_ok h
          exact ⟨rfl, rfl⟩
        · cases h

/-- What the responder decoder reads encodes to the key it was read from. -/
theorem encode_of_decodeKey {st : BitVec 3} {b : Byte} {i : Instr} (h : decodeKey (st ++ b) = .ok i) :
    encode i = .key (st ++ b) ∧ i.wf = true := by
  rw [decodeKey_append] at h
  rcases step_cases8 st with rfl | rfl | rfl | rfl | rfl | rfl | rfl | rfl
  case inl =>
    by_cases hb : b = 0x01#8
    · subst hb
      cases h
      exact ⟨rfl, rfl⟩
    · cases (if_neg hb).symm.trans h
      exact ⟨rfl, bne_iff_ne.mpr hb⟩
  case inr.inl =>
    by_cases hb : b = 0x42#8
    · subst hb
      cases h
      exact ⟨rfl, rfl⟩
    · cases (if_neg hb).symm.trans h
      exact ⟨rfl, bne_iff_ne.mpr hb⟩
  all_goals cases h; exact ⟨rfl, rfl⟩

/-- Settles O2: by the kind of the encoding and the row that decodes it. -/
theorem decodedEncodingReencodes : Obligations.DecodedEncodingReencodes := by
  intro e i h
  cases e with
  | command w payload => exact encode_of_decodeCommand h
  | key k =>
    have h' : decodeKey k = .ok i := h
    rw [key_eq_append k] at h' ⊢
    exact encode_of_decodeKey h'

/-! ### Totality and written-out words -/

/-- Settles O3: by the step in the key, the decoder's table has a row for every value. -/
theorem everyResponderKeyDecodes : Obligations.EveryResponderKeyDecodes := by
  intro k
  obtain ⟨i, hi⟩ : ∃ i, decodeKey k = .ok i := by
    rw [key_eq_append k, decodeKey_append]
    repeat' split
    all_goals exact ⟨_, rfl⟩
  exact ⟨i, hi, Machine.decodeKey_isRow hi⟩

/-- Settles O4: thirteen closed words, evaluated. -/
theorem writtenOutWordsDecode : Obligations.WrittenOutWordsDecode := by
  unfold Obligations.WrittenOutWordsDecode
  decide

end Sys2Proof
end

section
/-! PROOFS. What one move of an agent can do, said once: a host operation that changes more than `FAULTS`, each kind of move, and a step. -/

namespace Sys2Proof.Machine

/-! ### Host operations -/

/-- The state an accepted TRANSACT leaves: SETUP done and the settle wait begun (R101, R103, R104). -/
def started (out : List Byte) (nIn : Nat) (s : State) : State :=
  { setup out nIn s with hteSettle := 32 * out.length + s.params.settleGuard, hteTcnt := 0, htePhase := .settle }

theorem startSettle_setup {out : List Byte} {nIn : Nat} {s : State} (h : ¬ badRequest s.params out.length nIn) :
    startSettle out.length (setup out nIn s) = started out nIn s :=
  startSettle_eq (one_le_of_not_bad h).1 _

/-- What a host operation does to a state it does not fault in (R101, R102, R170 to R172). -/
inductive HostEffect (s : State) : Instr → State → Prop
  | publish (v : Half) (hidle : s.htePhase = .idle) (hmask : s.irqEn = false) :
      HostEffect s (.publish v) { s with curButtons := v }
  | irqDisable (hidle : s.htePhase = .idle) : HostEffect s .irqDisable { s with irqEn := false }
  | irqEnable (hidle : s.htePhase = .idle) : HostEffect s .irqEnable { s with irqEn := true }
  | reject (out : List Byte) (nIn : Byte) (hidle : s.htePhase = .idle) :
      HostEffect s (.transact out nIn) (rejectRequest s)
  | start (out : List Byte) (nIn : Byte) (hidle : s.htePhase = .idle)
      (hgood : ¬ badRequest s.params out.length nIn.toNat) :
      HostEffect s (.transact out nIn) (started out nIn.toNat s)

/-- A host operation records a fault or has its effect. -/
theorem exec_hostOp_effect {i : Instr} (hi : i.isHostOp = true) {s t : State} (h : exec i s = .next t) :
    (∃ c, t = s.addFault c) ∨ HostEffect s i t := by
  cases i with
  | transact out nIn =>
    rw [execTransact_eq] at h
    cases h
    split
    · exact .inl ⟨_, rfl⟩
    split
    · split
      · exact .inr (.reject out nIn ‹_›)
      · rename_i hidle hgood
        rw [startSettle_setup hgood]
        exact .inr (.start out nIn hidle hgood)
    · exact .inl ⟨_, rfl⟩
  | publish v =>
    rw [execPublish_eq] at h
    cases h
    split
    · split
      · exact .inl ⟨_, rfl⟩
      · exact .inr (.publish v ‹_› (Bool.eq_false_iff.mpr ‹_›))
    · exact .inl ⟨_, rfl⟩
  | irqDisable =>
    rw [execIrqDisable_eq] at h
    cases h
    split
    · exact .inr (.irqDisable ‹_›)
    · exact .inl ⟨_, rfl⟩
  | irqEnable =>
    rw [execIrqEnable_eq] at h
    cases h
    split
    · exact .inr (.irqEnable ‹_›)
    · exact .inl ⟨_, rfl⟩
  | _ => cases hi

/-! ### Ticks -/

theorem timeoutTicks_eq : Config.timeoutTicks = 64 := rfl

theorem tickSettle_counts {s : State} (h : s.hteTcnt + 1 < s.hteSettle) :
    tickSettle s = { s with hteTcnt := s.hteTcnt + 1 } :=
  if_neg (show ¬ s.hteSettle ≤ s.hteTcnt + 1 by omega)

theorem tickSettle_ends {s : State} (h : s.hteSettle ≤ s.hteTcnt + 1) :
    tickSettle s = enterRecv { s with hteTcnt := s.hteTcnt + 1 } :=
  if_pos h

theorem tickRecv_counts {s : State} (h : s.hteTcnt + 1 < 64) : tickRecv s = { s with hteTcnt := s.hteTcnt + 1 } :=
  if_neg (show ¬ 64 ≤ s.hteTcnt + 1 by omega)

theorem tickRecv_ends {s : State} (h : 64 ≤ s.hteTcnt + 1) : tickRecv s = completeTimeout s :=
  if_pos h

/-! ### Moves -/

/-- What a move of an agent does to a state in which the agent has that step. -/
inductive MoveEffect (s : State) : Move → State → Prop
  | commandFault (w : Word) (payload : List Byte) (c : FaultCode) : MoveEffect s (.cmd w payload) (s.addFault c)
  | command {w : Word} {payload : List Byte} {i : Instr} {t : State} (hdec : decodeCommand w payload = .ok i)
      (heffect : HostEffect s i t) : MoveEffect s (.cmd w payload) t
  | replyFault (hen : s.irqEn = true) (hpend : s.irqPend = true) (hfull : s.params.txqbDepth < s.txqb.length + 2) :
      MoveEffect s .irq (s.addFault .txqbFull)
  | reply {i : Instr} (hen : s.irqEn = true) (hpend : s.irqPend = true) (hdec : decodeKey (handlerKey s) = .ok i)
      (hrow : i.isHostOp = false) (hroom : s.txqb.length + 2 ≤ s.params.txqbDepth) :
      MoveEffect s .irq (s.reply (rowOf i s).1 (rowOf i s).2.1 (rowOf i s).2.2)
  | queueRx (w : Word) (hrun : s.engaRun = true) (hroom : s.rxqa.length < s.params.rxqaDepth)
      (hphase : s.htePhase ≠ .recv) : MoveEffect s (.rxa w) { s with rxqa := s.rxqa ++ [w] }
  | drainRx (w : Word) (hrun : s.engaRun = true) (hroom : s.rxqa.length < s.params.rxqaDepth)
      (hphase : s.htePhase = .recv) : MoveEffect s (.rxa w) (drain { s with rxqa := s.rxqa ++ [w] })
  | takeA {w : Word} {q : List Word} (hrun : s.engaRun = true) (hq : s.txqa = w :: q) :
      MoveEffect s .takeA { s with txqa := q }
  | tickIdle (hphase : s.htePhase = .idle) : MoveEffect s .tick s
  | tickCounts (hwait : s.htePhase = .settle ∧ s.hteTcnt + 1 < s.hteSettle ∨ s.htePhase = .recv ∧ s.hteTcnt + 1 < 64) :
      MoveEffect s .tick { s with hteTcnt := s.hteTcnt + 1 }
  | settleEnds (hphase : s.htePhase = .settle) (hlast : s.hteSettle ≤ s.hteTcnt + 1) :
      MoveEffect s .tick (enterRecv { s with hteTcnt := s.hteTcnt + 1 })
  | timesOut (hphase : s.htePhase = .recv) (hlast : 64 ≤ s.hteTcnt + 1) : MoveEffect s .tick (completeTimeout s)
  | tickFault (hphase : s.htePhase = .three) : MoveEffect s .tick (s.addFault .internal)
  | byteB (b : Byte) (hpend : s.irqPend = false) (hawait : s.engbAwait = 0) :
      MoveEffect s (.byteB b) { s with rxb := b, irqPend := true, engbAwait := 2 }
  | takeB {w : Word} {q : List Word} (hq : s.txqb = w :: q) : MoveEffect s .takeB { s with txqb := q }

theorem presentCommand_effect {w : Word} {payload : List Byte} {s t : State}
    (h : presentCommand w payload s = .next t) : MoveEffect s (.cmd w payload) t := by
  rcases presentCommand_next h with ⟨i, hdec, hexec⟩ | ⟨-, rfl⟩
  · rcases exec_hostOp_effect (decodeCommand_isHostOp hdec) hexec with ⟨c, rfl⟩ | heffect
    · exact .commandFault w payload c
    · exact .command hdec heffect
  · exact .commandFault w payload _

theorem takeInterrupt_effect {s t : State} (h : takeInterrupt s = .next t) : MoveEffect s .irq t := by
  obtain ⟨hen, hpend, i, hdec, hrow, hexec⟩ := takeInterrupt_next h
  rcases exec_row_next hrow hexec with ⟨hfull, rfl⟩ | ⟨hroom, c, r, n, hcrn, rfl⟩
  · exact .replyFault hen hpend hfull
  · obtain ⟨rfl, rfl, rfl⟩ : c = (rowOf i s).1 ∧ r = (rowOf i s).2.1 ∧ n = (rowOf i s).2.2 := by simp [← hcrn]
    exact .reply hen hpend hdec hrow hroom

theorem evTick_effect {s t : State} (h : evTick s = .next t) : MoveEffect s .tick t := by
  rcases evTick_next h with ⟨hphase, rfl⟩ | ⟨hphase, rfl⟩ | ⟨hphase, rfl⟩ | ⟨hphase, rfl⟩
  · exact .tickIdle hphase
  · rcases Nat.lt_or_ge (s.hteTcnt + 1) s.hteSettle with hmore | hlast
    · rw [tickSettle_counts hmore]
      exact .tickCounts (.inl ⟨hphase, hmore⟩)
    · rw [tickSettle_ends hlast]
      exact .settleEnds hphase hlast
  · rcases Nat.lt_or_ge (s.hteTcnt + 1) 64 with hmore | hlast
    · rw [tickRecv_counts hmore]
      exact .tickCounts (.inr ⟨hphase, hmore⟩)
    · rw [tickRecv_ends hlast]
      exact .timesOut hphase hlast
  · exact .tickFault hphase

/-- The inversion of a move. -/
theorem takeMove_effect {m : Move} {s t : State} (h : takeMove m s = .next t) : MoveEffect s m t := by
  cases m with
  | cmd w payload => exact presentCommand_effect h
  | irq => exact takeInterrupt_effect h
  | rxa w =>
    obtain ⟨hrun, hroom, ⟨hphase, rfl⟩ | ⟨hphase, rfl⟩⟩ := evRxa_next h
    · exact .drainRx w hrun hroom hphase
    · exact .queueRx w hrun hroom hphase
  | takeA =>
    obtain ⟨hrun, w, q, hq, rfl⟩ := evTakeA_next h
    exact .takeA hrun hq
  | tick => exact evTick_effect h
  | byteB b =>
    obtain ⟨hpend, hawait, rfl⟩ := evByteB_next h
    exact .byteB b hpend hawait
  | takeB =>
    obtain ⟨w, q, hq, rfl⟩ := evTakeB_next h
    exact .takeB hq

/-- A move other than a command's, where the agent has the step, has that effect: the converse of the inversion. -/
theorem takeMove_of_effect {m : Move} {s t : State} (hm : ∀ w payload, m ≠ .cmd w payload) (h : MoveEffect s m t) :
    takeMove m s = .next t := by
  cases h with
  | commandFault w payload c => exact absurd rfl (hm w payload)
  | command hdec heffect => exact absurd rfl (hm _ _)
  | replyFault hen hpend hfull =>
    obtain ⟨i, -, hrow, hrun⟩ := takeInterrupt_runs_row hen hpend
    rw [takeMove, hrun, exec_row hrow, answerByte_eq, if_pos hfull]
  | reply hen hpend hdec hrow hroom =>
    obtain ⟨i, hdec', -, hrun⟩ := takeInterrupt_runs_row hen hpend
    cases hdec.symm.trans hdec'
    rw [takeMove, hrun, exec_row hrow, answerByte_eq, if_neg (by omega)]
  | queueRx w hrun hroom hphase =>
    rw [takeMove, evRxa, if_pos (by simp [rxaEnabled, queueFull, hrun, hroom])]
    exact congrArg Host.Outcome.next (if_neg hphase)
  | drainRx w hrun hroom hphase =>
    rw [takeMove, evRxa, if_pos (by simp [rxaEnabled, queueFull, hrun, hroom])]
    exact congrArg Host.Outcome.next (if_pos hphase)
  | takeA hrun hq => simp [takeMove, evTakeA, hrun, hq]
  | tickIdle hphase => simp [takeMove, evTick, hphase]
  | tickCounts hwait =>
    rcases hwait with ⟨hphase, hmore⟩ | ⟨hphase, hmore⟩
    · simp [takeMove, evTick, hphase, tickSettle_counts hmore]
    · simp [takeMove, evTick, hphase, tickRecv_counts hmore]
  | settleEnds hphase hlast => simp [takeMove, evTick, hphase, tickSettle_ends hlast]
  | timesOut hphase hlast => simp [takeMove, evTick, hphase, tickRecv_ends hlast]
  | tickFault hphase => simp [takeMove, evTick, hphase, raiseFault]
  | byteB b hpend hawait => exact evByteB_enabled b hpend hawait
  | takeB hq => simp [takeMove, evTakeB, hq]

/-- The step of a scheduled move other than a command's, in a state without faults. -/
theorem step_of_effect {s t : State} {m : Move} {rest : List Move} (hf : s.faults = []) (hs : s.sched = m :: rest)
    (hm : ∀ w payload, m ≠ .cmd w payload) (h : MoveEffect { s with sched := rest } m t) : step s = .next t :=
  (step_cons hf hs).trans (takeMove_of_effect hm h)

/-- The inversion of a step: it ran from a state without faults, and its move had its effect or was a free move that
no agent could make. -/
theorem step_effect {s t : State} (h : step s = .next t) :
    s.faults = [] ∧ (MoveEffect s.popped (nextMove s) t ∨ t = s.popped) := by
  obtain ⟨hf, hmove | ⟨-, rfl⟩⟩ := step_next h
  · exact ⟨hf, .inl (takeMove_effect hmove)⟩
  · exact ⟨hf, .inr rfl⟩

/-! ### What no move writes, and what a fault leaves -/

/-- No move writes `HTE_CHAN` or a field of the model's own. -/
theorem MoveEffect.constants {s t : State} {m : Move} (h : MoveEffect s m t) :
    t.hteChan = s.hteChan ∧ SameOwn s t := by
  cases h with
  | command hdec heffect => cases heffect <;> exact ⟨rfl, rfl, rfl, rfl⟩
  | drainRx w hrun hroom hphase =>
    have hside := drain_side { s with rxqa := s.rxqa ++ [w] }
    exact ⟨hside.hteChan, hside.params, hside.sched, hside.freeCtr⟩
  | settleEnds hphase hlast =>
    have hside := enterRecv_side { s with hteTcnt := s.hteTcnt + 1 }
    exact ⟨hside.hteChan, hside.params, hside.sched, hside.freeCtr⟩
  | _ => exact ⟨rfl, rfl, rfl, rfl⟩

/-- A move keeps `FAULTS`, or is a fault: one code added and nothing else (R14). -/
theorem MoveEffect.faults_eq_or_addFault {s t : State} {m : Move} (h : MoveEffect s m t) :
    t.faults = s.faults ∨ ∃ c, t = s.addFault c := by
  cases h with
  | commandFault w payload c => exact .inr ⟨c, rfl⟩
  | replyFault hen hpend hfull => exact .inr ⟨_, rfl⟩
  | tickFault hphase => exact .inr ⟨_, rfl⟩
  | command hdec heffect => cases heffect <;> exact .inl rfl
  | drainRx w hrun hroom hphase => exact .inl (drain_side _).faults
  | settleEnds hphase hlast => exact .inl (enterRecv_side _).faults
  | _ => exact .inl rfl

/-! ### Runs of a schedule -/

/-- The first step of a run of a schedule is its first move. -/
theorem stepN_schedule_cons {m : Move} {ms : List Move} {s t : State}
    (h : stepN (m :: ms).length { s with sched := m :: ms } = .next t) :
    ∃ u, s.faults = [] ∧ MoveEffect { s with sched := ms } m u ∧ stepN ms.length { u with sched := ms } = .next t := by
  rw [List.length_cons] at h
  unfold stepN at h
  split at h
  · rename_i u hstep
    have hf : s.faults = [] := (step_next hstep).1
    have htaken : takeMove m { s with sched := ms } = .next u :=
      (step_cons (s := { s with sched := m :: ms }) hf rfl).symm.trans hstep
    have heffect := takeMove_effect htaken
    obtain ⟨-, -, hsched, -⟩ := heffect.constants
    have hu : { u with sched := ms } = u := by rw [show ms = u.sched from hsched.symm]
    exact ⟨u, hf, heffect, hu.symm ▸ h⟩
  · cases h
  · cases h

/-- The moves `ms`, one after the other, take `s` to `t`: the runs of a schedule as an inductive relation. -/
inductive ScheduleRun : List Move → State → State → Prop
  | nil (s : State) : ScheduleRun [] s { s with sched := [] }
  | cons {m : Move} {ms : List Move} {s u t : State} (hf : s.faults = [])
      (heffect : MoveEffect { s with sched := ms } m u) (hrest : ScheduleRun ms u t) : ScheduleRun (m :: ms) s t

theorem scheduleRun_of_stepN {ms : List Move} {s t : State} (h : stepN ms.length { s with sched := ms } = .next t) :
    ScheduleRun ms s t := by
  induction ms generalizing s with
  | nil =>
    cases h
    exact .nil s
  | cons m ms ih =>
    obtain ⟨u, hf, heffect, hrest⟩ := stepN_schedule_cons h
    exact .cons hf heffect (ih hrest)

/-- A run that ends without faults had none before. -/
theorem ScheduleRun.faults_nil {ms : List Move} {s t : State} (h : ScheduleRun ms s t) (ht : t.faults = []) :
    s.faults = [] := by
  cases h with
  | nil => exact ht
  | cons hf heffect hrest => exact hf

/-! ### The constants and the fault set -/

/-- Settles O59: no move writes them, and neither does the count of a free move. -/
theorem constantsNeverWritten : Obligations.ConstantsNeverWritten := by
  intro s t h
  obtain ⟨-, heffect | rfl⟩ := step_effect h
  · obtain ⟨hchan, hparams, -⟩ := heffect.constants
    exact ⟨hchan.trans (popped_hteChan s), hparams.trans (popped_params s), rfl⟩
  · exact ⟨popped_hteChan s, popped_params s, rfl⟩

/-- Settles O60: a move that keeps `FAULTS` keeps it empty, so the step is a fault. -/
theorem faultRecordsOnlyItsCode : Obligations.FaultRecordsOnlyItsCode := by
  intro s t h hfault
  obtain ⟨hf, heffect | rfl⟩ := step_effect h
  · rcases heffect.faults_eq_or_addFault with hsame | ⟨c, rfl⟩
    · exact absurd (by simpa [hf] using hsame) hfault
    · refine ⟨c, ?_⟩
      rw [popped_eq s]
      simp [State.addFault, hf]
  · exact absurd (by simpa using hf) hfault

end Sys2Proof.Machine
end

section
/-! PROOFS. The invariant of the core (spec 40_host_transaction_engine.md R120, 10_state.md): it holds at reset, every move keeps it, and so does every step. -/

namespace Sys2Proof.Machine

/-! ### The parts that one kind of move touches -/

theorem insertFault_length_le {l : List FaultCode} (h : l = []) (c : FaultCode) : (insertFault c l).length ≤ 1 := by
  simp [h]

/-- A fault in a state without faults leaves the one code. -/
theorem coreInv_addFault {s : State} (hs : CoreInv s) (hf : s.faults = []) (c : FaultCode) :
    CoreInv (s.addFault c) := by
  obtain ⟨hp, hhte, hreq, hwidths, hfit, harrays, hresp, hrsp, -⟩ := hs
  exact ⟨hp, hhte, hreq, hwidths, hfit, harrays, hresp, hrsp, insertFault_length_le hf c⟩

/-- Every row moves `STEP` to one of 0 to 4. -/
theorem rowOf_next_le (i : Instr) (s : State) : (rowOf i s).2.2 ≤ 4#3 := by
  cases i <;> simp [rowOf]

theorem coreInv_reply {s : State} (hs : CoreInv s) (hroom : s.txqb.length + 2 ≤ s.params.txqbDepth) (c : Bool)
    (r : Byte) {n : BitVec 3} (hn : n ≤ 4#3) : CoreInv (s.reply c r n) := by
  obtain ⟨hp, hhte, hreq, ⟨hnOut, hnIn, hidx, hlen, htcnt, hsettle, -⟩, ⟨htxqa, hrxqa, -⟩, harrays, -, hrsp,
    hfaults⟩ := hs
  exact ⟨hp, hhte, hreq, ⟨hnOut, hnIn, hidx, hlen, htcnt, hsettle, Nat.two_pow_pos _⟩,
    ⟨htxqa, hrxqa, by simpa using hroom⟩, harrays, ⟨hn, nofun, fun _ => rfl⟩, hrsp, hfaults⟩

theorem coreInv_byteB {s : State} (hs : CoreInv s) (b : Byte) :
    CoreInv { s with rxb := b, irqPend := true, engbAwait := 2 } := by
  obtain ⟨hp, hhte, hreq, ⟨hnOut, hnIn, hidx, hlen, htcnt, hsettle, -⟩, hfit, harrays, ⟨hstep, -, -⟩, hrsp,
    hfaults⟩ := hs
  exact ⟨hp, hhte, hreq, ⟨hnOut, hnIn, hidx, hlen, htcnt, hsettle, (show 2 < 2 ^ 2 by decide)⟩, hfit, harrays,
    ⟨hstep, fun _ => rfl, nofun⟩, hrsp, hfaults⟩

/-- The outgoing words of an admissible request fit `TXQA` (R7's bound on `MAX_OUT`). -/
theorem setupWords_fit {p : Config.Params} (hp : p.wf) {out : List Byte} (h : out.length ≤ p.maxOut) :
    (setupWords out).length ≤ p.txqaDepth := by
  obtain ⟨-, hone, hmax, -⟩ := hp
  simp [setupWords]
  omega

theorem coreInv_rejectRequest {s : State} (hs : CoreInv s) : CoreInv (rejectRequest s) := by
  obtain ⟨hp, hhte, hreq, ⟨hnOut, hnIn, hidx, -, hrest⟩, hfit, harrays, hresp, -, hfaults⟩ := hs
  exact ⟨hp, hhte, hreq, ⟨hnOut, hnIn, hidx, Nat.two_pow_pos _, hrest⟩, hfit, harrays, hresp,
    ⟨fun _ => rfl, Nat.zero_le _⟩, hfaults⟩

theorem coreInv_started {s : State} (hs : CoreInv s) {out : List Byte} {nIn : Byte}
    (hgood : ¬ badRequest s.params out.length nIn.toNat) : CoreInv (started out nIn.toNat s) := by
  obtain ⟨hp, -, -, ⟨-, -, -, hlen, -, -, hawait⟩, ⟨-, -, htxqb⟩, harrays, hresp, hrsp, hfaults⟩ := hs
  obtain ⟨hone, hmaxOut, hmaxIn⟩ := one_le_of_not_bad hgood
  have hfit := setupWords_fit hp hmaxOut
  have hwf := hp
  obtain ⟨-, -, hmax, -, -, -, -, -, hguard⟩ := hwf
  simp only [Config.settleMult, Config.bitsPerByte, Config.cntW] at hguard
  have hticks : 32 * out.length + s.params.settleGuard = Config.settleTicks s.params out.length := by
    simp only [Config.settleTicks, Config.settleMult, Config.bitsPerByte]; omega
  have hnIn : nIn.toNat < 2 ^ 8 := nIn.isLt
  refine ⟨hp, ⟨by simp [started], nofun, fun _ => ?_, nofun, nofun⟩,
    ⟨Nat.zero_le _, fun _ => rfl, fun _ => ⟨hone, hmaxOut, hmaxIn, hticks, rfl⟩⟩,
    ⟨?_, hnIn, Nat.two_pow_pos _, hlen, Nat.two_pow_pos _, ?_, hawait⟩, ⟨hfit, Nat.zero_le _, htxqb⟩,
    harrays, hresp, hrsp, hfaults⟩
  · show 0 < 32 * out.length + s.params.settleGuard
    omega
  · show out.length < 2 ^ 8
    omega
  · show 32 * out.length + s.params.settleGuard < 2 ^ 32
    omega

/-! ### The receive drain -/

/-- What the drain needs of the invariant: all of it but that the queue is empty and a byte is missing, in RECV. -/
abbrev DrainInv (s : State) : Prop :=
  s.params.wf ∧ (s.engaRun = true ∧ s.htePhase = .recv ∧ s.hteTcnt < Config.timeoutTicks) ∧
    RequestInv s ∧ WidthsHold s ∧ QueuesFit s ∧ ArraysInv s ∧ ResponderInv s ∧ ResponseInv s ∧ FaultsInv s

/-- The drain's loop leaves `DrainInv`, and an empty queue when a byte is still missing. -/
theorem drainInv_drainLoop {s : State} (hs : DrainInv s) : DrainInv (drainLoop s.rxqa s) := by
  obtain ⟨hp, ⟨hrun, hphase, htcnt⟩, ⟨hle, -, hreq⟩, ⟨hnOut, hnIn, hidx, hlen, htcnt', hsettle, hawait⟩,
    ⟨htxqa, hrxqa, htxqb⟩, ⟨hbuf, hdata, hbufBelow, hdataBelow⟩, hresp, hrsp, hfaults⟩ := hs
  have k := drainLoop_spec s.rxqa s
  have hacc : s.hteIdx + accepted s.rxqa s ≤ s.hteNIn := by unfold accepted; omega
  have hcount : (drainLoop s.rxqa s).hteTcnt ≤ s.hteTcnt := by rw [k.count]; split <;> omega
  obtain ⟨hone, hmaxOut, hmaxIn, hticks, hcfg⟩ := hreq (by rw [hphase]; nofun)
  have hmem := k.below _ hmaxIn hbufBelow
  unfold DrainInv RequestInv WidthsHold QueuesFit ArraysInv ResponderInv ResponseInv FaultsInv
  rw [k.side.params, k.side.hteNOut, k.side.hteNIn, k.side.hteSettle, k.side.engaCfg, k.side.txqa, k.side.txqb,
    k.side.stepReg, k.side.irqPend, k.side.engbAwait, k.side.faults, k.run, k.phase, k.status, k.len, k.data, k.idx,
    k.queue, hphase]
  refine ⟨hp, ⟨hrun, rfl, by omega⟩, ⟨hacc, nofun, fun _ => ⟨hone, hmaxOut, hmaxIn, hticks, hcfg⟩⟩,
    ⟨hnOut, hnIn, by omega, hlen, by omega, hsettle, hawait⟩, ⟨htxqa, ?_, htxqb⟩,
    ⟨k.wf hbuf, hdata, hmem, hdataBelow⟩, hresp, hrsp, hfaults⟩
  rw [List.length_drop]
  omega

/-- The drain sets up the phase's laws: it completes, or leaves an empty queue and a missing byte. -/
theorem coreInv_drain {s : State} (hs : DrainInv s) : CoreInv (drain s) := by
  have k := drainLoop_spec s.rxqa s
  have hloop := drainInv_drainLoop hs
  obtain ⟨-, -, ⟨hle, -⟩, -⟩ := hs
  obtain ⟨hp, ⟨hrun, hphase, htcnt⟩, ⟨hle', hzero, hreq⟩, hwidths, hfit, harrays, hresp, hrsp, hfaults⟩ := hloop
  rcases drain_cases s with ⟨hall, heq⟩ | ⟨hmissing, heq⟩
  · rw [heq]
    obtain ⟨hnOut, hnIn, hidx, -, hrest⟩ := hwidths
    obtain ⟨hbuf, hdata, hbufBelow, hdataBelow⟩ := harrays
    obtain ⟨-, -, hmaxIn, -⟩ := hreq (by rw [hphase]; nofun)
    exact ⟨hp, ⟨by simp, nofun, nofun, nofun, nofun⟩, ⟨hle', nofun, fun h => absurd rfl h⟩,
      ⟨hnOut, hnIn, hidx, hnIn, hrest⟩, hfit,
      ⟨hbuf, copyBytes_wf _ _ hdata, hbufBelow, copyBytes_below _ hmaxIn _ hdataBelow⟩, hresp,
      ⟨fun h => absurd rfl h, hmaxIn⟩, hfaults⟩
  · rw [heq]
    have hempty : (drainLoop s.rxqa s).rxqa = [] := by
      rw [k.queue]
      unfold accepted at hmissing ⊢
      exact List.drop_eq_nil_of_le (by omega)
    have hlt : (drainLoop s.rxqa s).hteIdx < (drainLoop s.rxqa s).hteNIn := by
      rw [← k.idx, ← k.side.hteNIn] at hmissing
      omega
    exact ⟨hp, ⟨by simp [hrun, hphase], fun _ => ⟨hlt, hempty⟩, by simp [hphase], fun _ => htcnt, by simp [hphase]⟩,
      ⟨hle', hzero, hreq⟩, hwidths, hfit, harrays, hresp, hrsp, hfaults⟩

/-! ### Events of the HTE's side -/

theorem coreInv_queueRx {s : State} (hs : CoreInv s) (w : Word)
    (hroom : s.rxqa.length < s.params.rxqaDepth) (hphase : s.htePhase ≠ .recv) :
    CoreInv { s with rxqa := s.rxqa ++ [w] } := by
  obtain ⟨hp, ⟨hrunIff, -, hsettle, hrecv, hthree⟩, hreq, hwidths, ⟨htxqa, -, htxqb⟩, hrest⟩ := hs
  exact ⟨hp, ⟨hrunIff, fun h => absurd h hphase, hsettle, hrecv, hthree⟩, hreq, hwidths,
    ⟨htxqa, by simpa using hroom, htxqb⟩, hrest⟩

theorem drainInv_pushRx {s : State} (hs : CoreInv s) (w : Word) (hrun : s.engaRun = true)
    (hroom : s.rxqa.length < s.params.rxqaDepth) (hphase : s.htePhase = .recv) :
    DrainInv { s with rxqa := s.rxqa ++ [w] } := by
  obtain ⟨hp, ⟨-, -, -, hrecv, -⟩, hreq, hwidths, ⟨htxqa, -, htxqb⟩, hrest⟩ := hs
  exact ⟨hp, ⟨hrun, hphase, hrecv hphase⟩, hreq, hwidths, ⟨htxqa, by simpa using hroom, htxqb⟩, hrest⟩

theorem coreInv_enterRecv {s : State} (hs : CoreInv s) (hphase : s.htePhase = .settle) :
    CoreInv (enterRecv s) := by
  obtain ⟨hp, ⟨hrunIff, -⟩, ⟨hle, -, hreq⟩, ⟨hnOut, hnIn, hidx, hlen, -, hsettle, hawait⟩, hrest⟩ := hs
  have hbusy : s.htePhase ≠ .idle := by rw [hphase]; nofun
  exact coreInv_drain ⟨hp, ⟨hrunIff.mpr hbusy, rfl, (show 0 < 64 by decide)⟩, ⟨hle, nofun, fun _ => hreq hbusy⟩,
    ⟨hnOut, hnIn, hidx, hlen, Nat.two_pow_pos _, hsettle, hawait⟩, hrest⟩

theorem coreInv_completeTimeout {s : State} (hs : CoreInv s) : CoreInv (completeTimeout s) := by
  obtain ⟨hp, -, ⟨hle, -, -⟩, ⟨hnOut, hnIn, hidx, -, -, hsettle, hawait⟩, hfit, harrays, hresp, -, hfaults⟩ := hs
  exact ⟨hp, ⟨by simp, nofun, nofun, nofun, nofun⟩, ⟨hle, nofun, fun h => absurd rfl h⟩,
    ⟨hnOut, hnIn, hidx, Nat.two_pow_pos _, Nat.two_pow_pos _, hsettle, hawait⟩, hfit, harrays, hresp,
    ⟨fun _ => rfl, Nat.zero_le _⟩, hfaults⟩

theorem coreInv_tickCounts {s : State} (hs : CoreInv s)
    (hwait : s.htePhase = .settle ∧ s.hteTcnt + 1 < s.hteSettle ∨ s.htePhase = .recv ∧ s.hteTcnt + 1 < 64) :
    CoreInv { s with hteTcnt := s.hteTcnt + 1 } := by
  obtain ⟨hp, ⟨hrunIff, hqueue, -, -, hthree⟩, hreq, ⟨hnOut, hnIn, hidx, hlen, -, hsettle, hawait⟩, hrest⟩ := hs
  have hcnt : s.hteTcnt + 1 < 2 ^ Config.cntW := by
    unfold Config.cntW at hsettle ⊢
    omega
  refine ⟨hp, ⟨hrunIff, hqueue, fun h => ?_, fun h => ?_, hthree⟩, hreq,
    ⟨hnOut, hnIn, hidx, hlen, hcnt, hsettle, hawait⟩, hrest⟩
  · rcases hwait with ⟨-, hmore⟩ | ⟨hrecv, -⟩
    · exact hmore
    · cases hrecv.symm.trans h
  · rcases hwait with ⟨hsettling, -⟩ | ⟨-, hmore⟩
    · cases hsettling.symm.trans h
    · exact hmore

/-! ### Every step -/

theorem coreInv_hostEffect {s t : State} {i : Instr} (hs : CoreInv s) (h : HostEffect s i t) : CoreInv t := by
  cases h with
  | publish v hidle hmask => exact hs
  | irqDisable hidle => exact hs
  | irqEnable hidle => exact hs
  | reject out nIn hidle => exact coreInv_rejectRequest hs
  | start out nIn hidle hgood => exact coreInv_started hs hgood

/-- Every move keeps the invariant. -/
theorem MoveEffect.coreInv {s t : State} {m : Move} (h : MoveEffect s m t) (hs : CoreInv s) (hf : s.faults = []) :
    CoreInv t := by
  cases h with
  | commandFault w payload c => exact coreInv_addFault hs hf c
  | command hdec heffect => exact coreInv_hostEffect hs heffect
  | replyFault hen hpend hfull => exact coreInv_addFault hs hf _
  | reply hen hpend hdec hrow hroom => exact coreInv_reply hs hroom _ _ (rowOf_next_le _ s)
  | queueRx w hrun hroom hphase => exact coreInv_queueRx hs w hroom hphase
  | drainRx w hrun hroom hphase => exact coreInv_drain (drainInv_pushRx hs w hrun hroom hphase)
  | takeA hrun hq =>
    obtain ⟨hp, hhte, hreq, hwidths, ⟨htxqa, hrxqa, htxqb⟩, hrest⟩ := hs
    rw [hq] at htxqa
    exact ⟨hp, hhte, hreq, hwidths, ⟨Nat.le_of_succ_le htxqa, hrxqa, htxqb⟩, hrest⟩
  | tickIdle hphase => exact hs
  | tickCounts hwait => exact coreInv_tickCounts hs hwait
  | settleEnds hphase hlast => exact coreInv_enterRecv (s := s) hs hphase
  | timesOut hphase hlast => exact coreInv_completeTimeout hs
  | tickFault hphase => exact coreInv_addFault hs hf _
  | byteB b hpend hawait => exact coreInv_byteB hs b
  | takeB hq =>
    obtain ⟨hp, hhte, hreq, hwidths, ⟨htxqa, hrxqa, htxqb⟩, hrest⟩ := hs
    rw [hq] at htxqb
    exact ⟨hp, hhte, hreq, hwidths, ⟨htxqa, hrxqa, Nat.le_of_succ_le htxqb⟩, hrest⟩

theorem coreInv_popped {s : State} (hs : CoreInv s) : CoreInv s.popped := by
  rw [popped_eq]
  exact hs

/-- Settles O56: the invariant does not speak of the schedule, and every move keeps it. -/
theorem stepKeepsCoreInv : Obligations.StepKeepsCoreInv := by
  intro s t hs h
  obtain ⟨hf, heffect | rfl⟩ := step_effect h
  · exact heffect.coreInv (coreInv_popped hs) ((popped_faults s).trans hf)
  · exact coreInv_popped hs

/-! ### Reset -/

/-- The chip's parameters meet R7's constraints, whatever the free constants are (log 6). -/
theorem params_wf : Config.params.wf := by
  have hmaxOut : Config.freeMaxOut % min 255 (Config.freeTxqaDepth + 2 - 1) < min 255 (Config.freeTxqaDepth + 2 - 1) :=
    Nat.mod_lt _ (by omega)
  unfold Config.Params.wf Config.params
  simp only [Config.settleMult, Config.bitsPerByte, Config.cntW]
  generalize Config.freeMaxOut % min 255 (Config.freeTxqaDepth + 2 - 1) = maxOut at hmaxOut ⊢
  have hguard : Config.freeSettleGuard % (2 ^ 32 - 4 * (8 * (maxOut + 1))) < 2 ^ 32 - 4 * (8 * (maxOut + 1)) :=
    Nat.mod_lt _ (by omega)
  omega

/-- Settles O57: in IDLE with zero counters and empty queues only the parameters are left to check. -/
theorem coreInvAtReset : Obligations.CoreInvAtReset :=
  ⟨params_wf, by decide, by decide, by decide, ⟨Nat.zero_le _, Nat.zero_le _, Nat.zero_le _⟩, by decide, by decide,
    ⟨fun _ => rfl, Nat.zero_le _⟩, by decide⟩

/-- Settles O58: each value as `State.reset` lists it. -/
theorem resetValues : Obligations.ResetValues := by
  unfold Obligations.ResetValues
  and_intros <;> rfl

end Sys2Proof.Machine
end

section
/-! PROOFS. Isolation of a transaction (spec 40_host_transaction_engine.md R118): what its result depends on is set up by TRANSACT and kept by every move of the HTE's side. -/

namespace Sys2Proof.Machine

/-! ### Agreement while a transaction runs -/

/-- What two running transactions share: the part of `HteAgree` for a phase other than IDLE. -/
structure RunAgree (s t : State) : Prop where
  wfBuf : Memory.wf s.hteBuf = true
  wfData : Memory.wf s.rspData = true
  wfBuf' : Memory.wf t.hteBuf = true
  wfData' : Memory.wf t.rspData = true
  params : s.params = t.params
  phase : s.htePhase = t.htePhase
  run : s.engaRun = t.engaRun
  nOut : s.hteNOut = t.hteNOut
  nIn : s.hteNIn = t.hteNIn
  idx : s.hteIdx = t.hteIdx
  tcnt : s.hteTcnt = t.hteTcnt
  settle : s.hteSettle = t.hteSettle
  cfg : s.engaCfg = t.engaCfg
  txqa : s.txqa = t.txqa
  rxqa : s.rxqa = t.rxqa
  bytes : bytesBelow s.hteIdx s.hteBuf = bytesBelow t.hteIdx t.hteBuf

theorem HteAgree.runAgree {s t : State} (h : HteAgree s t) (hbusy : s.htePhase ≠ .idle) : RunAgree s t := by
  obtain ⟨⟨wfBuf, wfData⟩, ⟨wfBuf', wfData'⟩, params, phase, run, -, hrunning⟩ := h
  obtain ⟨nOut, nIn, idx, tcnt, settle, cfg, txqa, rxqa, bytes⟩ := hrunning hbusy
  exact { wfBuf, wfData, wfBuf', wfData', params, phase, run, nOut, nIn, idx, tcnt, settle, cfg, txqa, rxqa, bytes }

theorem RunAgree.hteAgree {s t : State} (h : RunAgree s t) (hbusy : s.htePhase ≠ .idle) : HteAgree s t :=
  ⟨⟨h.wfBuf, h.wfData⟩, ⟨h.wfBuf', h.wfData'⟩, h.params, h.phase, h.run, fun hidle => absurd hidle hbusy,
    fun _ => ⟨h.nOut, h.nIn, h.idx, h.tcnt, h.settle, h.cfg, h.txqa, h.rxqa, h.bytes⟩⟩

theorem RunAgree.accepted_eq {s t : State} (h : RunAgree s t) : accepted s.rxqa s = accepted t.rxqa t := by
  simp only [accepted, h.rxqa, h.nIn, h.idx]

/-- The drain's loop takes agreeing states to agreeing states. -/
theorem RunAgree.drainLoop {s t : State} (h : RunAgree s t) : RunAgree (drainLoop s.rxqa s) (drainLoop t.rxqa t) := by
  have k := drainLoop_spec s.rxqa s
  have k' := drainLoop_spec t.rxqa t
  have hacc := h.accepted_eq
  exact
    { wfBuf := k.wf h.wfBuf
      wfData := k.data ▸ h.wfData
      wfBuf' := k'.wf h.wfBuf'
      wfData' := k'.data ▸ h.wfData'
      params := by rw [k.side.params, k'.side.params, h.params]
      phase := by rw [k.phase, k'.phase, h.phase]
      run := by rw [k.run, k'.run, h.run]
      nOut := by rw [k.side.hteNOut, k'.side.hteNOut, h.nOut]
      nIn := by rw [k.side.hteNIn, k'.side.hteNIn, h.nIn]
      idx := by rw [k.idx, k'.idx, h.idx, hacc]
      tcnt := by rw [k.count, k'.count, h.tcnt, hacc]
      settle := by rw [k.side.hteSettle, k'.side.hteSettle, h.settle]
      cfg := by rw [k.side.engaCfg, k'.side.engaCfg, h.cfg]
      txqa := by rw [k.side.txqa, k'.side.txqa, h.txqa]
      rxqa := by rw [k.queue, k'.queue, hacc, h.rxqa]
      bytes := by rw [k.bytes h.wfBuf, k'.bytes h.wfBuf', h.bytes, hacc, h.rxqa] }

/-- PROC reads the same result when two agreeing transactions complete with all their bytes. -/
theorem RunAgree.completeOk {s t : State} (h : RunAgree s t) (hall : s.hteIdx = s.hteNIn) :
    HteAgree (completeOk s) (completeOk t) := by
  have hbytes : bytesBelow s.hteNIn s.hteBuf = bytesBelow t.hteNIn t.hteBuf := by
    rw [← hall, ← h.nIn, ← hall, h.bytes, h.idx]
  refine ⟨⟨h.wfBuf, copyBytes_wf _ _ h.wfData⟩, ⟨h.wfBuf', copyBytes_wf _ _ h.wfData'⟩, h.params, rfl, rfl, fun _ => ?_,
    fun hne => absurd rfl hne⟩
  simp only [response, completeOk_rspStatus, completeOk_rspLen, completeOk_rspData,
    bytesBelow_copyBytes _ _ h.wfData, bytesBelow_copyBytes _ _ h.wfData', hbytes]

theorem RunAgree.completeTimeout {s t : State} (h : RunAgree s t) :
    HteAgree (completeTimeout s) (completeTimeout t) :=
  ⟨⟨h.wfBuf, h.wfData⟩, ⟨h.wfBuf', h.wfData'⟩, h.params, rfl, rfl, fun _ => rfl, fun hne => absurd rfl hne⟩

theorem RunAgree.drain {s t : State} (h : RunAgree s t) (hbusy : s.htePhase ≠ .idle) :
    HteAgree (drain s) (drain t) := by
  have hloop := h.drainLoop
  have hacc := h.accepted_eq
  have k := drainLoop_spec s.rxqa s
  rcases drain_cases s with ⟨hall, heq⟩ | ⟨hmissing, heq⟩ <;>
    rcases drain_cases t with ⟨hall', heq'⟩ | ⟨hmissing', heq'⟩ <;> rw [heq, heq']
  · exact hloop.completeOk (by rw [k.idx, k.side.hteNIn, hall])
  · exact absurd (by rw [← h.idx, ← h.nIn, ← hacc, hall]) hmissing'
  · exact absurd (by rw [h.idx, h.nIn, hacc, hall']) hmissing
  · exact hloop.hteAgree (k.phase ▸ hbusy)

theorem RunAgree.pushRx {s t : State} (h : RunAgree s t) (w : Word) :
    RunAgree { s with rxqa := s.rxqa ++ [w] } { t with rxqa := t.rxqa ++ [w] } :=
  { h with rxqa := congrArg (· ++ [w]) h.rxqa }

theorem RunAgree.enterRecv {s t : State} (h : RunAgree s t) : HteAgree (enterRecv s) (enterRecv t) :=
  RunAgree.drain { h with phase := rfl, tcnt := rfl } nofun

/-! ### Each move -/

/-- A move of the HTE's side takes agreeing transactions to agreeing ones. -/
theorem RunAgree.moveEffect {s t s' : State} {m : Move} (h : RunAgree s t) (hbusy : s.htePhase ≠ .idle)
    (hm : isHteMove m = true) (hs : MoveEffect s m s') : ∃ t', MoveEffect t m t' ∧ HteAgree s' t' := by
  cases hs with
  | queueRx w hrun hroom hphase =>
    rw [h.run] at hrun
    rw [h.rxqa, h.params] at hroom
    exact ⟨_, .queueRx w hrun hroom (h.phase ▸ hphase), (h.pushRx w).hteAgree hbusy⟩
  | drainRx w hrun hroom hphase =>
    rw [h.run] at hrun
    rw [h.rxqa, h.params] at hroom
    exact ⟨_, .drainRx w hrun hroom (h.phase ▸ hphase), (h.pushRx w).drain hbusy⟩
  | takeA hrun hq =>
    rw [h.txqa] at hq
    exact ⟨_, .takeA (h.run ▸ hrun) hq, RunAgree.hteAgree { h with txqa := rfl } hbusy⟩
  | tickIdle hphase => exact absurd hphase hbusy
  | tickCounts hwait =>
    rw [h.phase, h.tcnt, h.settle] at hwait
    exact ⟨_, .tickCounts hwait, RunAgree.hteAgree { h with tcnt := congrArg (· + 1) h.tcnt } hbusy⟩
  | settleEnds hphase hlast =>
    rw [h.tcnt, h.settle] at hlast
    exact ⟨_, .settleEnds (h.phase ▸ hphase) hlast, RunAgree.enterRecv { h with tcnt := congrArg (· + 1) h.tcnt }⟩
  | timesOut hphase hlast => exact ⟨_, .timesOut (h.phase ▸ hphase) (h.tcnt ▸ hlast), h.completeTimeout⟩
  | tickFault hphase => exact ⟨_, .tickFault (h.phase ▸ hphase), RunAgree.hteAgree { h with } hbusy⟩
  | _ => cases hm

/-- A move of bus B's side writes nothing that `HteAgree` reads. -/
theorem hteAgree_of_responder {s t s' : State} {m : Move} (h : HteAgree s t) (hm : isResponderMove m = true)
    (hs : MoveEffect s m s') : HteAgree s' t := by
  cases hs with
  | replyFault hen hpend hfull => exact h
  | reply hen hpend hdec hrow hroom => exact h
  | byteB b hpend hawait => exact h
  | takeB hq => exact h
  | _ => cases hm

/-- From two idle cores with the same parameters an accepted TRANSACT starts agreeing transactions. -/
theorem hteAgree_started {s t : State} (out : List Byte) (nIn : Nat) (hparams : s.params = t.params)
    (hs : Memory.wf s.hteBuf = true ∧ Memory.wf s.rspData = true)
    (ht : Memory.wf t.hteBuf = true ∧ Memory.wf t.rspData = true) :
    HteAgree (started out nIn s) (started out nIn t) := by
  refine ⟨hs, ht, hparams, rfl, rfl, nofun, fun _ => ⟨rfl, rfl, rfl, rfl, ?_, rfl, rfl, rfl, rfl⟩⟩
  exact congrArg (fun p : Config.Params => 32 * out.length + p.settleGuard) hparams

theorem exec_transact_accepted {out : List Byte} {nIn : Byte} {s : State} (hidle : s.htePhase = .idle)
    (hone : 1 ≤ out.length) (hmaxOut : out.length ≤ s.params.maxOut) (hmaxIn : nIn.toNat ≤ s.params.maxIn) :
    exec (.transact out nIn) s = .next (started out nIn.toNat s) := by
  have hgood : ¬ badRequest s.params out.length nIn.toNat := by
    unfold badRequest
    omega
  rw [execTransact_eq, if_neg (by simp [hidle]), if_pos hidle, if_neg hgood, startSettle_setup hgood]

theorem isHteMove_ne_cmd {m : Move} (h : isHteMove m = true) (w : Word) (payload : List Byte) : m ≠ .cmd w payload := by
  rintro rfl
  cases h

/-- Settles O51: an accepted TRANSACT sets up the agreement, and each side's moves keep it. -/
theorem transactionIsolation : Obligations.TransactionIsolation := by
  refine ⟨fun s t out nIn hs ht hparams _ hone hmaxOut hmaxIn hsBuf hsData htBuf htData => ?_,
    fun s t s' m h hbusy hm hmove => ?_, fun s t s' m h hm hmove => ?_⟩
  · refine ⟨_, _, exec_transact_accepted hs hone hmaxOut hmaxIn, exec_transact_accepted ht hone ?_ ?_,
      hteAgree_started out nIn.toNat hparams ⟨hsBuf, hsData⟩ ⟨htBuf, htData⟩⟩
    · rw [← hparams]; exact hmaxOut
    · rw [← hparams]; exact hmaxIn
  · obtain ⟨t', heffect, hagree⟩ := (h.runAgree hbusy).moveEffect hbusy hm (takeMove_effect hmove)
    exact ⟨t', takeMove_of_effect (isHteMove_ne_cmd hm) heffect, hagree⟩
  · exact hteAgree_of_responder h hm (takeMove_effect hmove)

end Sys2Proof.Machine
end

section
/-! PROOFS. PROC's commands (spec 40_host_transaction_engine.md section 1, 42_shared_state_control.md): when a step runs one, what each host operation does, and what it leaves unchanged. -/

namespace Sys2Proof.Machine

/-! ### Which instruction a step runs -/

/-- Settles O6: the schedule's first move is presented, and a word that decodes is executed. -/
theorem stepRunsPresentedCommand : Obligations.StepRunsPresentedCommand :=
  fun _ _ _ _ _ hf hs hdec => (step_cons hf hs).trans (presentCommand_ok hdec _)

/-- Settles O7: the key of the HANDLER's step decodes to the one row it runs. -/
theorem stepRunsPendingRow : Obligations.StepRunsPendingRow := by
  intro s rest i hf hen hpend hs hdec
  obtain ⟨j, hj, -, hrun⟩ := step_irq hf hen hpend hs
  cases hdec.symm.trans hj
  exact hrun

/-- Settles O8: `step` looks at `FAULTS` before the schedule. -/
theorem faultedMachineHasNoStep : Obligations.FaultedMachineHasNoStep := fun _ => step_faulted

theorem addFault_of_no_faults {s : State} (hf : s.faults = []) (c : FaultCode) :
    s.addFault c = { s with faults := [c] } := by
  simp [State.addFault, hf]

theorem decodeCommand_reserved {w : Word} (htransact : w &&& 0xFFFF0000#32 ≠ 0x10000000#32)
    (hpublish : w &&& 0xFFFF0000#32 ≠ 0x20000000#32) (hdisable : w ≠ 0x30000000#32) (henable : w ≠ 0x40000000#32)
    (payload : List Byte) : decodeCommand w payload = .error .reserved := by
  simp only [decodeCommand, and_ones, if_neg htransact, if_neg hpublish, if_neg hdisable, if_neg henable]

/-- Settles O5: the decoder rejects the word as reserved, which raises the fault in any phase. -/
theorem reservedWordsFault : Obligations.ReservedWordsFault := by
  intro s w payload rest hf hs htransact hpublish hdisable henable
  rw [step_cons hf hs, takeMove, presentCommand, decodeCommand_reserved htransact hpublish hdisable henable]
  exact congrArg Host.Outcome.next (addFault_of_no_faults (s := { s with sched := rest }) hf _)

/-! ### When an agent has a step -/

theorem withoutPayload_ne_payloadLength_iff (payload : List Byte) (i : Instr) :
    withoutPayload payload i ≠ .error .payloadLength ↔ payload = [] := by
  unfold withoutPayload
  split <;> simp [*]

/-- The decoder rejects a command for its payload exactly when the length is not its operation's (R73). -/
theorem decodeCommand_ne_payloadLength_iff (w : Word) (payload : List Byte) :
    decodeCommand w payload ≠ .error .payloadLength ↔
      (w &&& 0xFFFF0000#32 = 0x10000000#32 → payload.length = (w.extractLsb' 8 8).toNat) ∧
        (w &&& 0xFFFF0000#32 = 0x20000000#32 ∨ w = 0x30000000#32 ∨ w = 0x40000000#32 → payload = []) := by
  unfold decodeCommand
  rw [and_ones]
  split
  · rename_i htransact
    have hother : ¬ (w &&& 0xFFFF0000#32 = 0x20000000#32 ∨ w = 0x30000000#32 ∨ w = 0x40000000#32) := by
      rintro (hpublish | rfl | rfl)
      · cases htransact.symm.trans hpublish
      · cases htransact
      · cases htransact
    split
    · rename_i hlength
      exact iff_of_true nofun ⟨fun _ => hlength, fun h => absurd h hother⟩
    · rename_i hlength
      exact iff_of_false (fun h => h rfl) fun h => hlength (h.1 htransact)
  · rename_i htransact
    split
    · simp [*, withoutPayload_ne_payloadLength_iff]
    split
    · simp [*, withoutPayload_ne_payloadLength_iff]
    split
    · simp [*, withoutPayload_ne_payloadLength_iff]
    · simp [*]

theorem decodeCommand_ne_noRow (w : Word) (payload : List Byte) : decodeCommand w payload ≠ .error .noRow := by
  unfold decodeCommand withoutPayload
  repeat' split
  all_goals nofun

/-- A presented command has an outcome of the core unless its payload is of the wrong length (log 4). -/
theorem presentCommand_answers_iff (w : Word) (payload : List Byte) (s : State) :
    (∃ t, presentCommand w payload s = .next t) ↔ decodeCommand w payload ≠ .error .payloadLength := by
  unfold presentCommand
  split
  · exact iff_of_true (exec_answers _ s) (by simp [*])
  · exact iff_of_true ⟨_, rfl⟩ (by simp [*])
  · rename_i e hne heq
    refine iff_of_false nofun ?_
    cases e with
    | reserved => exact absurd rfl hne
    | payloadLength => simp [heq]
    | noRow => exact absurd heq (decodeCommand_ne_noRow w payload)

theorem evTick_answers (s : State) : ∃ t, evTick s = .next t := by
  unfold evTick
  split <;> exact ⟨_, rfl⟩

/-- Settles O9: by the agent; one direction is the inversion of its move, the other gives the move's outcome. -/
theorem moveStepsExactlyWhenEnabled : Obligations.MoveStepsExactlyWhenEnabled := by
  intro s m rest hf hs
  rw [step_cons hf hs]
  cases m with
  | cmd w payload => exact (presentCommand_answers_iff w payload _).trans (decodeCommand_ne_payloadLength_iff w payload)
  | irq =>
    refine ⟨fun ⟨t, h⟩ => ?_, fun ⟨hen, hpend⟩ => ?_⟩
    · obtain ⟨hen, hpend, -⟩ := takeInterrupt_next h
      exact ⟨hen, hpend⟩
    · obtain ⟨i, -, -, hrun⟩ := takeInterrupt_runs_row (s := { s with sched := rest }) hen hpend
      obtain ⟨t, ht⟩ := exec_answers i { s with sched := rest }
      exact ⟨t, hrun.trans ht⟩
  | rxa w =>
    refine ⟨fun ⟨t, h⟩ => ?_, fun ⟨hrun, hroom⟩ => ?_⟩
    · obtain ⟨hrun, hroom, -⟩ := evRxa_next h
      exact ⟨hrun, hroom⟩
    · by_cases hphase : s.htePhase = .recv
      · exact ⟨_, takeMove_of_effect nofun (.drainRx w hrun hroom hphase)⟩
      · exact ⟨_, takeMove_of_effect nofun (.queueRx w hrun hroom hphase)⟩
  | takeA =>
    refine ⟨fun ⟨t, h⟩ => ?_, fun ⟨hrun, hne⟩ => ?_⟩
    · obtain ⟨hrun, w, q, hq, -⟩ := evTakeA_next h
      exact ⟨hrun, List.ne_nil_of_mem (hq ▸ List.mem_cons_self)⟩
    · obtain ⟨w, q, hq⟩ := List.exists_cons_of_ne_nil hne
      exact ⟨_, takeMove_of_effect nofun (.takeA hrun hq)⟩
  | tick => exact iff_of_true (evTick_answers _) trivial
  | byteB b =>
    refine ⟨fun ⟨t, h⟩ => ?_, fun ⟨hpend, hawait⟩ => ?_⟩
    · obtain ⟨hpend, hawait, -⟩ := evByteB_next h
      exact ⟨hpend, hawait⟩
    · exact ⟨_, evByteB_enabled b hpend hawait⟩
  | takeB =>
    refine ⟨fun ⟨t, h⟩ => ?_, fun hne => ?_⟩
    · obtain ⟨w, q, hq, -⟩ := evTakeB_next h
      exact List.ne_nil_of_mem (hq ▸ List.mem_cons_self)
    · obtain ⟨w, q, hq⟩ := List.exists_cons_of_ne_nil hne
      exact ⟨_, takeMove_of_effect nofun (.takeB hq)⟩

/-! ### TRANSACT -/

/-- Settles O10: SETUP and the settle wait, with the words' layouts as concatenations. -/
theorem transactStartsTransaction : Obligations.TransactStartsTransaction := by
  intro s out nIn _ hwf hidle hone hmaxOut hmaxIn
  have hwords : setupWords out = BitVec.ofNat 32 (8 * out.length) :: out.map fun o => (o ++ 0#24 : Word) := by
    rw [setupWords, funext txByteWord_eq, hdrFn]
  refine ⟨?_, ?_⟩
  · rw [exec_transact_accepted hidle hone hmaxOut hmaxIn, ← hwords]
    rfl
  · simpa [setupWords] using setupWords_fit hwf hmaxOut

/-- Settles O11: a broken constraint is the rejection in IDLE. -/
theorem transactRejectsBadRequest : Obligations.TransactRejectsBadRequest := by
  intro s out nIn _ hidle hbad
  refine ⟨?_, rfl⟩
  rw [execTransact_eq, if_neg (by simp [hidle]), if_pos hidle, if_pos hbad]
  rfl

theorem started_frame (out : List Byte) (nIn : Nat) (s : State) :
    SameEngineB s (started out nIn s) ∧ SameShared s (started out nIn s) ∧ SameResponse s (started out nIn s) ∧
      SameOwn s (started out nIn s) := by
  simp [started, SameEngineB, SameShared, SameResponse, SameOwn]

theorem rejectRequest_frame (s : State) :
    SameHte s (rejectRequest s) ∧ SameEngineA s (rejectRequest s) ∧ SameEngineB s (rejectRequest s) ∧
      SameShared s (rejectRequest s) ∧ SameOwn s (rejectRequest s) := by
  simp [SameHte, SameEngineA, SameEngineB, SameShared, SameOwn]

/-- Settles O17: a fault, the rejection and the start of a transaction; only the last changes the phase. -/
theorem transactFrame : Obligations.TransactFrame := by
  intro s t out nIn _ h
  rcases exec_hostOp_effect rfl h with ⟨c, rfl⟩ | heffect
  · obtain ⟨hte, rsp, engA, engB, shared, own, stepReg⟩ := addFault_frame s c
    exact ⟨engB, shared, stepReg, own, rfl, fun _ => rfl, fun _ => rfl, fun _ => ⟨hte, engA⟩, fun hne => absurd rfl hne⟩
  cases heffect with
  | reject _ _ hidle =>
    obtain ⟨hte, engA, engB, shared, own⟩ := rejectRequest_frame s
    exact ⟨engB, shared, rfl, own, rfl, fun _ => rfl, fun _ => rfl, fun _ => ⟨hte, engA⟩, fun hne => absurd rfl hne⟩
  | start _ _ hidle hgood =>
    obtain ⟨engB, shared, rsp, own⟩ := started_frame out nIn.toNat s
    refine ⟨engB, shared, rfl, own, rfl, fun _ => rfl, fun _ => rfl, fun hsame => ?_, fun _ => ⟨rsp, rfl⟩⟩
    cases hsame.trans hidle

/-! ### PUBLISH, IRQ_DISABLE and IRQ_ENABLE -/

theorem exec_publish_masked {s : State} (hidle : s.htePhase = .idle) (hmask : s.irqEn = false) (v : Half) :
    exec (.publish v) s = .next { s with curButtons := v } := by
  rw [execPublish_eq, if_pos hidle, if_neg (by simp [hmask])]

theorem exec_publish_unmasked {s : State} (hidle : s.htePhase = .idle) (hen : s.irqEn = true) (v : Half) :
    exec (.publish v) s = .next (s.addFault .unguardedPublish) := by
  rw [execPublish_eq, if_pos hidle, if_pos hen]

theorem exec_irqDisable_idle {s : State} (hidle : s.htePhase = .idle) :
    exec .irqDisable s = .next { s with irqEn := false } := by
  rw [execIrqDisable_eq, if_pos hidle]

theorem exec_irqEnable_idle {s : State} (hidle : s.htePhase = .idle) :
    exec .irqEnable s = .next { s with irqEn := true } := by
  rw [execIrqEnable_eq, if_pos hidle]

/-- Settles O13: by the mask; the fault is recorded in an empty `FAULTS`. -/
theorem publishWritesButtons : Obligations.PublishWritesButtons := by
  intro s v hf hidle
  refine ⟨fun hmask => exec_publish_masked hidle hmask v, fun hen => ?_⟩
  rw [exec_publish_unmasked hidle hen, addFault_of_no_faults hf]

/-- Settles O15: each gate command is one write in IDLE. -/
theorem irqGateWrites : Obligations.IrqGateWrites :=
  fun _ _ hidle => ⟨exec_irqDisable_idle hidle, exec_irqEnable_idle hidle⟩

/-- Settles O16: each of the three records a fault or writes its one register. -/
theorem gateOpsFrame : Obligations.GateOpsFrame := by
  intro s t i hi h
  have hhost : i.isHostOp = true := by rcases hi with rfl | rfl | ⟨v, rfl⟩ <;> rfl
  rcases exec_hostOp_effect hhost h with ⟨c, rfl⟩ | heffect
  · obtain ⟨hte, rsp, engA, engB, ⟨buttons, irqEn⟩, own, stepReg⟩ := addFault_frame s c
    exact ⟨hte, rsp, engA, engB, stepReg, own, fun _ => irqEn, fun _ => buttons⟩
  · cases heffect with
    | publish v hidle hmask => simp [SameHte, SameResponse, SameEngineA, SameEngineB, SameOwn]
    | irqDisable hidle => simp [SameHte, SameResponse, SameEngineA, SameEngineB, SameOwn]
    | irqEnable hidle => simp [SameHte, SameResponse, SameEngineA, SameEngineB, SameOwn]
    | reject out nIn hidle => simp at hi
    | start out nIn hidle hgood => simp at hi

/-! ### A host operation while a transaction runs -/

/-- The code that a host operation raises outside IDLE (R101, R175). -/
def busyCode (i : Instr) (phase : Phase) : FaultCode :=
  match i, phase with
  | .transact _ _, .three => .internal
  | _, _ => .hteBusy

theorem exec_hostOp_busy {i : Instr} (hi : i.isHostOp = true) {s : State} (hbusy : s.htePhase ≠ .idle) :
    exec i s = .next (s.addFault (busyCode i s.htePhase)) := by
  cases i with
  | transact out nIn =>
    rw [execTransact_eq, if_neg hbusy]
    split
    · rename_i hthree
      rw [hthree]
      rfl
    · rename_i hthree
      rw [busyCode]
      exact fun _ _ _ => hthree
  | publish v => rw [execPublish_eq, if_neg hbusy]; rfl
  | irqDisable => rw [execIrqDisable_eq, if_neg hbusy]; rfl
  | irqEnable => rw [execIrqEnable_eq, if_neg hbusy]; rfl
  | _ => cases hi

/-- Settles O12: the busy fault, with the unused phase 3 told apart for TRANSACT. -/
theorem hostOpsWhileBusyFault : Obligations.HostOpsWhileBusyFault := by
  intro s i hi hf hbusy
  rw [exec_hostOp_busy hi hbusy, addFault_of_no_faults hf]
  refine ⟨fun hthree => ?_, fun hthree => ?_⟩
  · have hcode : busyCode i s.htePhase = .hteBusy := by
      unfold busyCode
      split
      · exact absurd ‹_› hthree
      · rfl
    rw [hcode]
  · rw [hthree]
    cases i <;> rfl

/-! ### CRIT_PUBLISH -/

theorem step_publish {s : State} {rest : List Move} {v : Half} (hf : s.faults = [])
    (hs : s.sched = .cmd (0x2000#16 ++ v) [] :: rest) : step s = exec (.publish v) { s with sched := rest } :=
  stepRunsPresentedCommand _ _ _ _ _ hf hs (decode_encode_publish v)

theorem step_publish_masked {s : State} {rest : List Move} {v : Half} (hf : s.faults = []) (hidle : s.htePhase = .idle)
    (hmask : s.irqEn = false) (hs : s.sched = .cmd (0x2000#16 ++ v) [] :: rest) :
    step s = .next { s with sched := rest, curButtons := v } :=
  (step_publish hf hs).trans (exec_publish_masked (s := { s with sched := rest }) hidle hmask v)

theorem step_irqDisable {s : State} {rest : List Move} (hf : s.faults = []) (hidle : s.htePhase = .idle)
    (hs : s.sched = .cmd 0x30000000#32 [] :: rest) : step s = .next { s with sched := rest, irqEn := false } :=
  (stepRunsPresentedCommand _ _ _ _ .irqDisable hf hs rfl).trans (exec_irqDisable_idle hidle)

theorem step_irqEnable {s : State} {rest : List Move} (hf : s.faults = []) (hidle : s.htePhase = .idle)
    (hs : s.sched = .cmd 0x40000000#32 [] :: rest) : step s = .next { s with sched := rest, irqEn := true } :=
  (stepRunsPresentedCommand _ _ _ _ .irqEnable hf hs rfl).trans (exec_irqEnable_idle hidle)

/-- The three commands of CRIT_PUBLISH, in IDLE, publish the value and leave the interrupt enabled. -/
theorem stepN_critPublish {s : State} {rest : List Move} {v : Half} (hf : s.faults = []) (hidle : s.htePhase = .idle)
    (hs : s.sched = critPublish v ++ rest) :
    stepN 3 s = .next { s with sched := rest, curButtons := v, irqEn := true } := by
  refine Eq.trans (stepN_succ 2 (step_irqDisable hf hidle hs)) ?_
  refine Eq.trans (stepN_succ 1 (step_publish_masked hf hidle rfl rfl)) ?_
  exact stepN_succ 0 (step_irqEnable hf hidle rfl)

/-- Settles O14: the expansion is the three encodings, and their steps run one after the other. -/
theorem critPublishWritesButtons : Obligations.CritPublishWritesButtons := by
  refine fun v => ⟨fun a b c ha hb hc => ?_, fun s rest hf hidle hs => stepN_critPublish hf hidle hs,
    fun s rest hf hidle hen hs => ?_⟩
  · cases ha
    cases hb
    cases hc
    rfl
  · refine (step_publish hf hs).trans ?_
    refine (exec_publish_unmasked (s := { s with sched := rest }) hidle hen v).trans ?_
    exact congrArg Host.Outcome.next (addFault_of_no_faults (s := { s with sched := rest }) hf _)

end Sys2Proof.Machine
end

section
/-! PROOFS. The responder (spec 41_slave_responder.md): the rejecting rows, the step table, one HANDLER step per byte, and the reply sequences of a bus-B master. -/

namespace Sys2Proof.Machine

/-! ### Rows that reject -/

/-- Settles O23: the decoder's table at step 0 and the row's outcomes. -/
theorem stepZeroRejectReplies : Obligations.StepZeroRejectReplies :=
  fun b hb => ⟨(decodeKey_append 0#3 b).trans (if_neg hb), fun _ hf => row_outcomes (i := .rspS0Reject b) rfl hf⟩

/-- Settles O25: the decoder's table at step 1 and the row's outcomes. -/
theorem stepOneRejectReplies : Obligations.StepOneRejectReplies :=
  fun b hb => ⟨(decodeKey_append 1#3 b).trans (if_neg hb), fun _ hf => row_outcomes (i := .rspS1Reject b) rfl hf⟩

/-- Settles O28: the decoder's table at steps 5, 6 and 7 and the outcomes of the two rows. -/
theorem illegalStepsResynchronise : Obligations.IllegalStepsResynchronise := by
  refine fun b => ⟨decodeKey_append 5#3 b, decodeKey_append 6#3 b, decodeKey_append 7#3 b, fun s low hf => ?_⟩
  obtain ⟨room₅, full₅⟩ := row_outcomes (i := .rspIllegalStep5 b) rfl hf
  obtain ⟨room₆₇, full₆₇⟩ := row_outcomes (i := .rspIllegalStep67 low b) rfl hf
  exact ⟨fun h => ⟨room₅ h, room₆₇ h⟩, fun h => ⟨full₅ h, full₆₇ h⟩⟩

/-! ### The step table -/

/-- Settles O30: whichever row the key decodes to, it finds too little room. -/
theorem fullReplyQueueFaults : Obligations.FullReplyQueueFaults := by
  intro s rest hf hen hpend hs hfull
  obtain ⟨i, -, hrow, hrun⟩ := step_irq hf hen hpend hs
  rw [hrun]
  exact (row_outcomes hrow (s := { s with sched := rest }) hf).2 hfull

theorem lowByte_eq (v : Half) : lowByte v = BitVec.ofNat 8 v.toNat := by
  apply BitVec.eq_of_toNat_eq
  simp [lowByte]

theorem highByte_eq (v : Half) : highByte v = BitVec.ofNat 8 (v.toNat / 256) := by
  apply BitVec.eq_of_toNat_eq
  simp [highByte, Nat.shiftRight_eq_div_pow]

/-- The row that a key decodes to is the step table's row for its step and byte. -/
theorem rowOf_eq_stepTable {st : BitVec 3} {b : Byte} {i : Instr} (h : decodeKey (st ++ b) = .ok i) (s : State) :
    rowOf i s = stepTable st.toNat b s.curButtons := by
  rw [decodeKey_append] at h
  rcases step_cases8 st with rfl | rfl | rfl | rfl | rfl | rfl | rfl | rfl
  case inl =>
    by_cases hb : b = 0x01#8
    · subst hb
      cases h
      rw [rowOf, ident_eq, identity_bytes.1]
      rfl
    · cases (if_neg hb).symm.trans h
      exact (if_neg hb).symm
  case inr.inl =>
    by_cases hb : b = 0x42#8
    · subst hb
      cases h
      rw [rowOf, ident_eq, identity_bytes.2]
      rfl
    · cases (if_neg hb).symm.trans h
      exact (if_neg hb).symm
  case inr.inr.inl =>
    cases h
    rw [rowOf, lowByte_eq]
    rfl
  case inr.inr.inr.inl =>
    cases h
    rw [rowOf, highByte_eq]
    rfl
  all_goals cases h; rfl

/-- Settles O31: the row that runs is the step table's. -/
theorem handlerFollowsStepTable : Obligations.HandlerFollowsStepTable := by
  intro s rest hf hen hpend hs hroom
  obtain ⟨i, hdec, hrow, hrun⟩ := step_irq hf hen hpend hs
  rw [hrun, (row_outcomes hrow (s := { s with sched := rest }) hf).1 hroom, rowOf_eq_stepTable hdec, busbTxPack_eq]
  rfl

/-- A row ends the reply exactly when it goes back to step 0. -/
theorem rowOf_continues_iff (i : Instr) (s : State) : (rowOf i s).1 = false ↔ (rowOf i s).2.2 = 0#3 := by
  cases i <;> simp [rowOf]

theorem continueWord_eq_zero_iff (c : Bool) : continueWord c = 0x00000000#32 ↔ c = false := by
  cases c <;> decide

/-- Settles O32: the continue word is the row's flag, and the row's flag tells whether it goes back to step 0. -/
theorem continueFalseExactlyAtStepZero : Obligations.ContinueFalseExactlyAtStepZero := by
  intro s t i hrow hexec hsame hf
  rcases exec_row_next hrow hexec with ⟨-, rfl⟩ | ⟨-, c, r, n, hcrn, rfl⟩
  · exact absurd (hsame.trans hf) (insertFault_ne_nil _ _)
  · have hiff := rowOf_continues_iff i s
    rw [← hcrn] at hiff
    refine ⟨continueWord c, busbTxPack r, by simp, ?_, (continueWord_eq_zero_iff c).trans hiff⟩
    cases c
    · exact .inl rfl
    · exact .inr rfl

/-! ### Engine B's events -/

/-- Settles O39: nothing is pending and engine B awaits no word, so it has the step. -/
theorem byteBLatchesByte : Obligations.ByteBLatchesByte :=
  fun _ b _ hf hs hpend hawait => step_of_effect hf hs nofun (.byteB b hpend hawait)

theorem step_takeB {s : State} {w : Word} {q : List Word} {rest : List Move} (hs : s.sched = .takeB :: rest)
    (hq : s.txqb = w :: q) (hf : s.faults = []) : step s = .next { s with sched := rest, txqb := q } :=
  step_of_effect hf hs nofun (.takeB hq)

/-- Settles O40: each engine's queue is not empty, and engine A runs. -/
theorem enginesTakeOldestWord : Obligations.EnginesTakeOldestWord :=
  fun _ _ _ _ hf => ⟨fun hs hrun hq => step_of_effect hf hs nofun (.takeA hrun hq),
    fun hs hq => step_takeB hs hq hf⟩

/-! ### One HANDLER step per byte -/

/-- A move that does not fault changes the pending bit as it counts: a received byte sets it, a HANDLER step clears
it. -/
theorem MoveEffect.irqPend_count {s t : State} {m : Move} (h : MoveEffect s m t) (hf : t.faults = []) :
    s.irqPend.toNat + [m].countP isByteB = [m].count .irq + t.irqPend.toNat := by
  cases h with
  | commandFault w payload c => exact absurd hf (insertFault_ne_nil _ _)
  | replyFault hen hpend hfull => exact absurd hf (insertFault_ne_nil _ _)
  | tickFault hphase => exact absurd hf (insertFault_ne_nil _ _)
  | command hdec heffect => cases heffect <;> simp [isByteB, started]
  | reply hen hpend hdec hrow hroom => simp [isByteB, hpend]
  | byteB b hpend hawait => simp [isByteB, hpend]
  | drainRx w hrun hroom hphase => simp [isByteB, (drain_side _).irqPend]
  | settleEnds hphase hlast => simp [isByteB, (enterRecv_side _).irqPend]
  | _ => simp [isByteB]

theorem ScheduleRun.irqPend_count {ms : List Move} {s t : State} (h : ScheduleRun ms s t) (hf : t.faults = []) :
    s.irqPend.toNat + ms.countP isByteB = ms.count .irq + t.irqPend.toNat := by
  induction h with
  | nil s => simp
  | @cons m ms s u t _ heffect hrest ih =>
    have hmove : s.irqPend.toNat + [m].countP isByteB = [m].count .irq + u.irqPend.toNat :=
      heffect.irqPend_count (hrest.faults_nil hf)
    have hms := ih hf
    rw [← List.singleton_append, List.countP_append, List.count_append]
    omega

/-- Settles O34: each move of the schedule counts as it changes the pending bit. -/
theorem oneHandlerStepPerByte : Obligations.OneHandlerStepPerByte :=
  fun _ _ _ h hf => (scheduleRun_of_stepN h).irqPend_count hf

/-! ### A served byte -/

/-- Engine B waits for the next byte: nothing is pending, `TXQB` is empty and the interrupt is enabled. -/
structure Ready (s : State) : Prop where
  faults : s.faults = []
  irqEn : s.irqEn = true
  irqPend : s.irqPend = false
  engbAwait : s.engbAwait = 0
  txqb : s.txqb = []
  depth : 2 ≤ s.params.txqbDepth

/-- `s` after the byte `b` is served and its two words are taken. -/
def afterByte (s : State) (b : Byte) : State :=
  { s with rxb := b, stepReg := (stepTable s.stepReg.toNat b s.curButtons).2.2 }

/-- The step after the byte `b` at step `st`, which `CUR_BUTTONS` has no part in. -/
def nextStep (st : BitVec 3) (b : Byte) : BitVec 3 := (stepTable st.toNat b 0x0000#16).2.2

theorem afterByte_stepReg (s : State) (b : Byte) : (afterByte s b).stepReg = nextStep s.stepReg b := by
  unfold afterByte nextStep stepTable
  dsimp only
  repeat' split
  all_goals rfl

/-- `s` after the byte `b` is served, its two words waiting in `TXQB`. -/
def served (s : State) (b : Byte) : State :=
  { afterByte s b with
    txqb :=
      [if (stepTable s.stepReg.toNat b s.curButtons).1 then 0xFFFFFFFF#32 else 0x00000000#32,
        BitVec.ofNat 32 (stepTable s.stepReg.toNat b s.curButtons).2.1.toNat] }

theorem Ready.afterByte {s : State} (h : Ready s) (b : Byte) : Ready (afterByte s b) := { h with }

theorem Ready.withSched {s : State} (h : Ready s) (ms : List Move) : Ready { s with sched := ms } := { h with }

/-- A received byte and the HANDLER step after it. -/
theorem stepN_serve {s : State} (h : Ready s) {b : Byte} {rest : List Move} (hs : s.sched = .byteB b :: .irq :: rest) :
    stepN 2 s = .next (served { s with sched := rest } b) := by
  refine Eq.trans (stepN_succ 1 (byteBLatchesByte s b _ h.faults hs h.irqPend h.engbAwait)) ?_
  refine Eq.trans (stepN_succ 0 (handlerFollowsStepTable _ rest h.faults h.irqEn rfl rfl ?_)) ?_
  · simpa [h.txqb] using h.depth
  · simp [stepN, answered, served, Machine.afterByte, h.txqb, h.irqPend, h.engbAwait]

/-- Engine B takes the two words of a served byte. -/
theorem stepN_take {s : State} (h : Ready s) (b : Byte) (rest : List Move) :
    stepN 2 (served { s with sched := .takeB :: .takeB :: rest } b) = .next (afterByte { s with sched := rest } b) := by
  refine Eq.trans (stepN_succ 1 (step_takeB rfl rfl h.faults)) ?_
  refine Eq.trans (stepN_succ 0 (step_takeB rfl rfl h.faults)) ?_
  simp [stepN, served, Machine.afterByte, h.txqb]

/-- The words of one byte are taken and the next byte is served. -/
theorem stepN_take_serve {s : State} (h : Ready s) (b b' : Byte) (rest : List Move) :
    stepN 4 (served { s with sched := .takeB :: .takeB :: .byteB b' :: .irq :: rest } b) =
      .next (served (afterByte { s with sched := rest } b) b') :=
  (stepN_add 2 2 (stepN_take h b _)).trans (stepN_serve ((h.withSched _).afterByte b) rfl)

/-! ### A complete reply sequence -/

theorem ofNat_lowButtons (v : Half) :
    BitVec.ofNat 32 (BitVec.ofNat 8 v.toNat).toNat = BitVec.ofNat 32 (v.toNat % 256) := by
  simp

theorem ofNat_highButtons (v : Half) :
    BitVec.ofNat 32 (BitVec.ofNat 8 (v.toNat / 256)).toNat = BitVec.ofNat 32 (v.toNat / 256) := by
  have hv : v.toNat / 256 < 256 := by omega
  simp [Nat.mod_eq_of_lt hv]

theorem served_txqb_of_step {s : State} {st : BitVec 3} (h : s.stepReg = st) (b : Byte) :
    (served s b).txqb =
      [if (stepTable st.toNat b s.curButtons).1 then 0xFFFFFFFF#32 else 0x00000000#32,
        BitVec.ofNat 32 (stepTable st.toNat b s.curButtons).2.1.toNat] := by
  subst h
  rfl

/-- At step 2 the reply to any byte is the low byte of `CUR_BUTTONS`. -/
theorem served_txqb_at_two {s : State} (h : s.stepReg = 2#3) (b : Byte) :
    (served s b).txqb = [0xFFFFFFFF#32, BitVec.ofNat 32 (s.curButtons.toNat % 256)] := by
  rw [← ofNat_lowButtons]
  exact served_txqb_of_step h b

/-- At step 3 the reply to any byte is the high byte of `CUR_BUTTONS`. -/
theorem served_txqb_at_three {s : State} (h : s.stepReg = 3#3) (b : Byte) :
    (served s b).txqb = [0xFFFFFFFF#32, BitVec.ofNat 32 (s.curButtons.toNat / 256)] := by
  rw [← ofNat_highButtons]
  exact served_txqb_of_step h b

/-- Settles O35: each byte is served from the step that the byte before it left. -/
theorem completeReplySequence : Obligations.CompleteReplySequence := by
  intro s x y z rest hf hen hpend hawait h0 hq hdepth hs
  have r0 : Ready s := ⟨hf, hen, hpend, hawait, hq, hdepth⟩
  have r1 := r0.afterByte 0x01#8
  have h1 : (afterByte s 0x01#8).stepReg = 1#3 := by rw [afterByte_stepReg, h0]; rfl
  have r2 := r1.afterByte 0x42#8
  have h2 : (afterByte (afterByte s 0x01#8) 0x42#8).stepReg = 2#3 := by rw [afterByte_stepReg, h1]; rfl
  have r3 := r2.afterByte x
  have h3 : (afterByte (afterByte (afterByte s 0x01#8) 0x42#8) x).stepReg = 3#3 := by rw [afterByte_stepReg, h2]; rfl
  have r4 := r3.afterByte y
  have h4 : (afterByte (afterByte (afterByte (afterByte s 0x01#8) 0x42#8) x) y).stepReg = 4#3 := by
    rw [afterByte_stepReg, h3]; rfl
  have h5 := (afterByte_stepReg (afterByte (afterByte (afterByte (afterByte s 0x01#8) 0x42#8) x) y) z).trans
    (congrArg (nextStep · z) h4)
  refine ⟨_, _, _, _, _, stepN_serve r0 hs, ?_, h1, stepN_take_serve r0 _ _ _, ?_, h2, stepN_take_serve r1 _ _ _,
    served_txqb_at_two h2 x, h3, stepN_take_serve r2 _ _ _, served_txqb_at_three h3 y, h4, stepN_take_serve r3 _ _ _,
    ?_, h5, (stepN_take r4 _ _).trans ?_⟩
  · exact served_txqb_of_step h0 0x01#8
  · exact served_txqb_of_step h1 0x42#8
  · exact served_txqb_of_step h4 z
  · simp [afterByte, h0, stepTable]

/-! ### An aborted sequence -/

/-- Serving the bytes `bs`, words taken, moves `STEP` on byte by byte. -/
theorem stepN_serveBytes {bs : List Byte} {s : State} (h : Ready s) {rest : List Move}
    (hs : s.sched = serveBytes bs ++ rest) :
    ∃ t, stepN (4 * bs.length) s = .next t ∧ t.stepReg = bs.foldl nextStep s.stepReg ∧ t.sched = rest := by
  induction bs generalizing s with
  | nil => exact ⟨s, rfl, rfl, hs⟩
  | cons b bs ih =>
    have hready := (h.withSched (serveBytes bs ++ rest)).afterByte b
    obtain ⟨t, hrun, hstep, hsched⟩ := ih hready rfl
    have hbyte : stepN 4 s = .next (afterByte { s with sched := serveBytes bs ++ rest } b) :=
      (stepN_add 2 2 (stepN_serve h hs)).trans (stepN_take h b _)
    refine ⟨t, ?_, ?_, hsched⟩
    · rw [List.length_cons, show 4 * (bs.length + 1) = 4 + 4 * bs.length by omega]
      exact (stepN_add 4 _ hbyte).trans hrun
    · rw [hstep, afterByte_stepReg]
      rfl

/-- From steps 2 and 3 any byte moves `STEP` on by one. -/
theorem nextStep_toNat {st : BitVec 3} (hlow : 2 ≤ st.toNat) (hhigh : st.toNat < 4) (b : Byte) :
    (nextStep st b).toNat = st.toNat + 1 := by
  rcases step_cases8 st with rfl | rfl | rfl | rfl | rfl | rfl | rfl | rfl <;> simp at hlow hhigh <;> rfl

theorem foldl_nextStep_toNat {bs : List Byte} {st : BitVec 3} (hlow : 2 ≤ st.toNat) (hbs : st.toNat + bs.length < 5) :
    (bs.foldl nextStep st).toNat = st.toNat + bs.length := by
  induction bs generalizing st with
  | nil => rfl
  | cons b bs ih =>
    rw [List.length_cons] at hbs
    have hnext := nextStep_toNat hlow (by omega) b
    rw [List.foldl_cons, ih (by omega) (by omega), hnext, List.length_cons]
    omega

/-- The last byte, at step 4, brings `STEP` back to 0. -/
theorem foldl_nextStep_eq_zero {bs : List Byte} {st : BitVec 3} (hlow : 2 ≤ st.toNat) (hhigh : st.toNat ≤ 4)
    (hbs : st.toNat + bs.length = 5) : bs.foldl nextStep st = 0#3 := by
  obtain ⟨init, last, rfl⟩ : ∃ init last, bs = init ++ [last] :=
    ⟨bs.dropLast, bs.getLast (by rintro rfl; simp at hbs; omega), (List.dropLast_append_getLast _).symm⟩
  rw [List.length_append, List.length_singleton] at hbs
  have hfour : init.foldl nextStep st = 4#3 := by
    apply BitVec.eq_of_toNat_eq
    rw [foldl_nextStep_toNat hlow (by omega)]
    exact Nat.succ.inj hbs
  rw [List.foldl_append, hfour]
  rfl

/-- Settles O36: a rejected byte at step 1; from steps 2, 3 and 4 any bytes only count. -/
theorem abortSpoilsNextAttempt : Obligations.AbortSpoilsNextAttempt := by
  intro s bs rest hf hen hpend hawait hq hdepth hs
  have hready : Ready s := ⟨hf, hen, hpend, hawait, hq, hdepth⟩
  obtain ⟨t, hrun, hstep, hsched⟩ := stepN_serveBytes hready hs
  refine ⟨fun hone hbs => ?_, fun hlow hhigh hbs => ⟨t, hrun, ?_⟩, fun hlow hhigh hbs => ⟨t, hrun, ?_, hsched⟩⟩
  · subst hbs
    exact ⟨_, stepN_serve hready hs, served_txqb_of_step hone 0x01#8,
      (afterByte_stepReg s 0x01#8).trans (congrArg (nextStep · 0x01#8) hone)⟩
  · rw [hstep, foldl_nextStep_toNat hlow (by omega)]
  · rw [hstep, foldl_nextStep_eq_zero hlow hhigh (by omega)]

/-! ### A publish before and between the button bytes -/

/-- From step 2 the replies to the next two bytes are the two bytes of `CUR_BUTTONS`. -/
theorem stepN_serve_buttons {s : State} (h : Ready s) (hstep : s.stepReg = 2#3) {x y : Byte} {rest : List Move}
    (hs : s.sched = serveBytes [x, y] ++ rest) :
    ∃ t₁ t₂,
      stepN 2 s = .next t₁ ∧ t₁.txqb = [0xFFFFFFFF#32, BitVec.ofNat 32 (s.curButtons.toNat % 256)] ∧
      stepN 4 t₁ = .next t₂ ∧ t₂.txqb = [0xFFFFFFFF#32, BitVec.ofNat 32 (s.curButtons.toNat / 256)] := by
  have hthree : (afterByte s x).stepReg = 3#3 := by rw [afterByte_stepReg, hstep]; rfl
  exact ⟨_, _, stepN_serve h hs, served_txqb_at_two hstep x, stepN_take_serve h _ _ _, served_txqb_at_three hthree y⟩

/-- Settles O37: CRIT_PUBLISH leaves engine B ready, with the interrupt enabled. -/
theorem publishedValueIsRead : Obligations.PublishedValueIsRead := by
  intro s v x y rest hf hidle hpend hawait hstep hq hdepth hs
  rw [List.append_assoc] at hs
  have hready : Ready { s with sched := serveBytes [x, y] ++ rest, curButtons := v, irqEn := true } :=
    ⟨hf, rfl, hpend, hawait, hq, hdepth⟩
  obtain ⟨t₁, t₂, hrun₁, hq₁, hrun₂, hq₂⟩ := stepN_serve_buttons hready hstep rfl
  exact ⟨t₁, t₂, (stepN_add 3 2 (stepN_critPublish hf hidle hs)).trans hrun₁, hq₁, hrun₂, hq₂⟩

/-- Settles O38: the second byte is served after CRIT_PUBLISH, from step 3. -/
theorem tornButtonPairAdmitted : Obligations.TornButtonPairAdmitted := by
  intro s v x y rest hf hen hidle hpend hawait hstep hq hdepth hs
  have hready : Ready s := ⟨hf, hen, hpend, hawait, hq, hdepth⟩
  have hthree : (afterByte s x).stepReg = 3#3 := by rw [afterByte_stepReg, hstep]; rfl
  have hpublished : Ready { afterByte s x with sched := serveBytes [y] ++ rest, curButtons := v, irqEn := true } :=
    { hready with irqEn := rfl }
  have htake := stepN_take hready x (critPublish v ++ (serveBytes [y] ++ rest))
  have hcrit := stepN_critPublish (s := afterByte { s with sched := critPublish v ++ (serveBytes [y] ++ rest) } x) hf
    hidle rfl
  have hserve := stepN_serve hpublished rfl
  have hsched : s.sched = .byteB x :: .irq :: .takeB :: .takeB :: (critPublish v ++ (serveBytes [y] ++ rest)) := by
    rw [hs, List.append_assoc, List.append_assoc]
    rfl
  have hqueue := served_txqb_at_three
    (s := { afterByte s x with sched := .takeB :: .takeB :: rest, curButtons := v, irqEn := true }) hthree y
  exact ⟨_, _, stepN_serve hready hsched, served_txqb_at_two hstep x,
    (stepN_add 2 5 htake).trans ((stepN_add 3 2 hcrit).trans hserve), hqueue, hf⟩

end Sys2Proof.Machine
end

section
/-! PROOFS. The Host Transaction Engine's waits and completions (spec 40_host_transaction_engine.md sections 2 and 3): counting, draining, OK and TIMEOUT. -/

namespace Sys2Proof.Machine

/-! ### Ticks and queued words -/

/-- Settles O41: a tick in IDLE, and a tick before the last of each wait. -/
theorem ticksCount : Obligations.TicksCount :=
  fun _ _ hf hs =>
    ⟨fun hphase => step_of_effect hf hs nofun (.tickIdle hphase),
      fun hphase hmore => step_of_effect hf hs nofun (.tickCounts (.inl ⟨hphase, hmore⟩)),
      fun hphase hmore => step_of_effect hf hs nofun (.tickCounts (.inr ⟨hphase, hmore⟩))⟩

/-- Settles O42: in SETTLE a word is not drained. -/
theorem rxWordsQueueDuringSettle : Obligations.RxWordsQueueDuringSettle :=
  fun _ w _ hf hs hrun hphase hroom =>
    step_of_effect hf hs nofun (.queueRx w hrun hroom (fun hrecv => nomatch hphase.symm.trans hrecv))

/-! ### The end of the settle wait -/

theorem response_completeOk {s : State} (h : Memory.wf s.rspData = true) :
    response (completeOk s) = (.ok, bytesBelow s.hteNIn s.hteBuf) := by
  simp [response, bytesBelow_copyBytes _ _ h]

/-- With fewer words queued than are missing the drain takes them all and the HTE waits on. -/
theorem drain_waits {s : State} (hidx : s.hteIdx = 0) (htcnt : s.hteTcnt = 0) (hwf : Memory.wf s.hteBuf = true)
    (hfew : s.rxqa.length < s.hteNIn) :
    (drain s).htePhase = s.htePhase ∧ (drain s).hteTcnt = 0 ∧ (drain s).hteIdx = s.rxqa.length ∧ (drain s).rxqa = [] ∧
      bytesBelow (drain s).hteIdx (drain s).hteBuf = s.rxqa.map rxByte ∧ (drain s).engaRun = s.engaRun ∧
      SameResponse s (drain s) := by
  have k := drainLoop_spec s.rxqa s
  have hacc : accepted s.rxqa s = s.rxqa.length := by
    unfold accepted
    omega
  have heq : drain s = drainLoop s.rxqa s := by
    rcases drain_cases s with ⟨hall, -⟩ | ⟨-, heq⟩
    · omega
    · exact heq
  rw [heq, k.bytes hwf, k.count, k.idx, k.queue, hacc, hidx, htcnt]
  refine ⟨k.phase, ite_self 0, Nat.zero_add _, List.drop_length, ?_, k.run, k.status, k.len, fun i => by rw [k.data]⟩
  rw [List.take_length]
  rfl

/-- With at least as many words queued as are missing the drain completes OK with the oldest of them. -/
theorem drain_completes {s : State} (hidx : s.hteIdx = 0) (hwf : Memory.wf s.hteBuf = true)
    (hdata : Memory.wf s.rspData = true) (hmany : s.hteNIn ≤ s.rxqa.length) :
    (drain s).htePhase = .idle ∧ (drain s).engaRun = false ∧ (drain s).rxqa = s.rxqa.drop s.hteNIn ∧
      response (drain s) = (.ok, (s.rxqa.take s.hteNIn).map rxByte) := by
  have k := drainLoop_spec s.rxqa s
  have hacc : accepted s.rxqa s = s.hteNIn := by
    unfold accepted
    omega
  have heq : drain s = completeOk (drainLoop s.rxqa s) := by
    rcases drain_cases s with ⟨-, heq⟩ | ⟨hmissing, -⟩
    · exact heq
    · omega
  have hbytes := k.bytes hwf
  rw [k.idx, hacc, hidx, Nat.zero_add] at hbytes
  rw [heq]
  refine ⟨rfl, rfl, hacc ▸ k.queue, ?_⟩
  rw [response_completeOk (k.data ▸ hdata), k.side.hteNIn, hbytes]
  rfl

theorem step_settleEnds {s : State} {rest : List Move} (hf : s.faults = []) (hs : s.sched = .tick :: rest)
    (hphase : s.htePhase = .settle) (hlast : s.hteSettle ≤ s.hteTcnt + 1) :
    step s = .next (enterRecv { s with sched := rest, hteTcnt := s.hteTcnt + 1 }) :=
  step_of_effect hf hs nofun (.settleEnds hphase hlast)

/-- Settles O43: the tick enters RECV with a fresh timeout, and the drain finds too few words or enough. -/
theorem settleEndDrainsQueue : Obligations.SettleEndDrainsQueue := by
  intro s rest hf hs hphase hlast hidx hwf hdata
  have hstep := step_settleEnds hf hs hphase hlast
  refine ⟨fun hfew => ⟨_, hstep, ?_⟩, fun hmany => ⟨_, hstep, ?_⟩⟩
  · exact drain_waits (s := { s with sched := rest, htePhase := .recv, hteTcnt := 0 }) hidx rfl hwf hfew
  · exact drain_completes (s := { s with sched := rest, htePhase := .recv, hteTcnt := 0 }) hidx hwf hdata hmany

/-! ### An RX word in RECV -/

/-- Settles O44: a word that is not the last is stored, and `RXQA` is empty again. -/
theorem receiveAcceptsByte : Obligations.ReceiveAcceptsByte := by
  intro s w rest hf hs hrun hphase hq hdepth hmore hwf
  refine ⟨Memory.write s.hteBuf s.hteIdx (rxByte w), ?_, fun i => Memory.read_write hwf _ _ _⟩
  have hdrain := drain_single_more (s := { s with sched := rest, rxqa := [w] }) hmore rfl
  rw [step_rxa_recv hf hs hrun hphase hq hdepth, hdrain, hq]
  rfl

/-- The last missing word completes the transaction with its byte after the bytes accepted before. -/
theorem drain_lastByte {s : State} {w : Word} (hlast : s.hteIdx + 1 = s.hteNIn) (hq : s.rxqa = [w])
    (hwf : Memory.wf s.hteBuf = true) (hdata : Memory.wf s.rspData = true) :
    (drain s).htePhase = .idle ∧ (drain s).engaRun = false ∧ (drain s).rspStatus = .ok ∧ (drain s).rspLen = s.hteNIn ∧
      response (drain s) = (.ok, bytesBelow s.hteIdx s.hteBuf ++ [rxByte w]) := by
  rw [drain_single_last hlast hq, ← bytesBelow_acceptWord w hwf, hlast]
  exact ⟨rfl, rfl, rfl, rfl, response_completeOk (s := { acceptWord w s with rxqa := [] }) hdata⟩

/-! ### What a move does to the result -/

/-- What a move does to the phase and to the result PROC reads. -/
inductive ResultEffect (s : State) : Move → State → Prop
  | keeps {m : Move} {t : State} (hstatus : t.rspStatus = s.rspStatus)
      (hphase : t.htePhase = .idle → s.htePhase = .idle) : ResultEffect s m t
  | rejects {m : Move} (hidle : s.htePhase = .idle) : ResultEffect s m (rejectRequest s)
  | completes {m : Move} {u : State} (hbusy : s.htePhase ≠ .idle) (hall : u.hteIdx = u.hteNIn)
      (hdata : u.rspData = s.rspData) : ResultEffect s m (completeOk u)
  | timesOut (hphase : s.htePhase = .recv) (hlast : 64 ≤ s.hteTcnt + 1) : ResultEffect s .tick (completeTimeout s)

/-- The drain completes OK with all the bytes, or keeps the result and the phase. -/
theorem drain_resultEffect {s₀ s : State} (m : Move) (hbusy₀ : s₀.htePhase ≠ .idle) (hbusy : s.htePhase ≠ .idle)
    (hstatus : s.rspStatus = s₀.rspStatus) (hdata : s.rspData = s₀.rspData) : ResultEffect s₀ m (drain s) := by
  have k := drainLoop_spec s.rxqa s
  rcases drain_cases s with ⟨hall, heq⟩ | ⟨-, heq⟩ <;> rw [heq]
  · exact .completes hbusy₀ (by rw [k.idx, k.side.hteNIn, hall]) (k.data.trans hdata)
  · exact .keeps (k.status.trans hstatus) fun hidle => absurd (k.phase.symm.trans hidle) hbusy

theorem MoveEffect.resultEffect {s t : State} {m : Move} (h : MoveEffect s m t) : ResultEffect s m t := by
  cases h with
  | command hdec heffect =>
    cases heffect with
    | reject out nIn hidle => exact .rejects hidle
    | start out nIn hidle hgood => exact .keeps rfl nofun
    | _ => exact .keeps rfl id
  | drainRx w hrun hroom hphase =>
    have hbusy : s.htePhase ≠ .idle := by rw [hphase]; nofun
    exact drain_resultEffect _ hbusy hbusy rfl rfl
  | settleEnds hphase hlast => exact drain_resultEffect _ (by rw [hphase]; nofun) nofun rfl rfl
  | timesOut hphase hlast => exact .timesOut hphase hlast
  | _ => exact .keeps rfl id

/-- The same of a step: a free move that no agent can make keeps both. -/
theorem step_resultEffect {s t : State} (h : step s = .next t) : ResultEffect s.popped (nextMove s) t := by
  obtain ⟨-, heffect | rfl⟩ := step_effect h
  · exact heffect.resultEffect
  · exact .keeps rfl id

/-- Settles O45: the last word's drain completes, and only a completing drain makes the status OK. -/
theorem lastByteCompletesOk : Obligations.LastByteCompletesOk := by
  refine ⟨fun s w rest hf hs hrun hphase hq hdepth hlast hwf hdata => ?_, fun s t h hbusy hidle hok hdata => ?_,
    fun s t h hnot hok => ?_⟩
  · exact ⟨_, step_rxa_recv hf hs hrun hphase hq hdepth,
      drain_lastByte (s := { s with sched := rest, rxqa := [w] }) hlast rfl hwf hdata⟩
  · have heffect := step_resultEffect h
    generalize nextMove s = m at heffect
    cases heffect with
    | keeps hstatus hphase => exact absurd ((popped_htePhase s).symm.trans (hphase hidle)) hbusy
    | rejects hidle' => cases hok
    | completes hbusy' hall hdata' =>
      rw [popped_rspData] at hdata'
      exact ⟨hall, rfl, rfl, response_completeOk (hdata' ▸ hdata)⟩
    | timesOut hphase hlast => cases hok
  · have heffect := step_resultEffect h
    generalize nextMove s = m at heffect
    cases heffect with
    | keeps hstatus hphase => exact absurd ((popped_rspStatus s).symm.trans (hstatus.symm.trans hok)) hnot
    | rejects hidle => cases hok
    | completes hbusy hall hdata => exact ⟨popped_htePhase s ▸ hbusy, rfl⟩
    | timesOut hphase hlast => cases hok

theorem step_timesOut {s : State} {rest : List Move} (hf : s.faults = []) (hs : s.sched = .tick :: rest)
    (hphase : s.htePhase = .recv) (hlast : 64 ≤ s.hteTcnt + 1) :
    step s = .next (completeTimeout { s with sched := rest }) :=
  step_of_effect hf hs nofun (.timesOut hphase hlast)

/-- Settles O46: the tick's completion, and no other effect makes the status TIMEOUT. -/
theorem receiveTickTimesOut : Obligations.ReceiveTickTimesOut := by
  refine ⟨fun s rest hf hs hphase hlast => ⟨_, step_timesOut hf hs hphase hlast, rfl, rfl⟩,
    fun s t h hnot htimeout => ?_⟩
  have heffect := step_resultEffect h
  generalize nextMove s = m at heffect ⊢
  cases heffect with
  | keeps hstatus hphase => exact absurd ((popped_rspStatus s).symm.trans (hstatus.symm.trans htimeout)) hnot
  | rejects hidle => cases htimeout
  | completes hbusy hall hdata => cases htimeout
  | timesOut hphase hlast => exact ⟨rfl, popped_htePhase s ▸ hphase, popped_hteTcnt s ▸ hlast⟩

/-! ### What starts a transaction -/

theorem decodeCommand_transact_payload {w : Word} {payload out : List Byte} {nIn : Byte}
    (h : decodeCommand w payload = .ok (.transact out nIn)) : out = payload := by
  obtain ⟨hencode, -⟩ := encode_of_decodeCommand h
  exact (Encoded.command.inj hencode).2

/-- A move that leaves IDLE is a command that decodes to TRANSACT. -/
theorem MoveEffect.leaves_idle {s t : State} {m : Move} (h : MoveEffect s m t) (hidle : s.htePhase = .idle)
    (hbusy : t.htePhase ≠ .idle) :
    ∃ w payload nIn, m = .cmd w payload ∧ decodeCommand w payload = .ok (.transact payload nIn) := by
  cases h with
  | command hdec heffect =>
    cases heffect with
    | start out nIn hidle' hgood =>
      cases decodeCommand_transact_payload hdec
      exact ⟨_, _, _, rfl, hdec⟩
    | _ => exact absurd hidle hbusy
  | drainRx w hrun hroom hphase => cases hidle.symm.trans hphase
  | settleEnds hphase hlast => cases hidle.symm.trans hphase
  | timesOut hphase hlast => exact absurd rfl hbusy
  | _ => exact absurd hidle hbusy

/-- Settles O47: the start of a transaction and the TIMEOUT, which ends one. -/
theorem onlyTransactStartsTransaction : Obligations.OnlyTransactStartsTransaction := by
  refine ⟨fun s t h hidle hbusy => ?_, fun s rest hf hs hphase hlast => ⟨_, step_timesOut hf hs hphase hlast, rfl, rfl⟩⟩
  obtain ⟨-, heffect | rfl⟩ := step_effect h
  · exact heffect.leaves_idle ((popped_htePhase s).trans hidle) hbusy
  · exact absurd ((popped_htePhase s).trans hidle) hbusy

/-! ### The ignored bits of an RX word -/

theorem rxByte_toNat (w : Word) : (rxByte w).toNat = w.toNat / 2 ^ 24 := by
  have hw := w.isLt
  simp only [rxByte, BitVec.extractLsb'_toNat, Nat.shiftRight_eq_div_pow]
  omega

theorem map_rxByte_eq_iff (q q' : List Word) :
    q.map (fun w => w.toNat / 2 ^ 24) = q'.map (fun w => w.toNat / 2 ^ 24) ↔ q.map rxByte = q'.map rxByte := by
  have htoNat : (fun w : Word => w.toNat / 2 ^ 24) = BitVec.toNat ∘ rxByte := funext fun w => (rxByte_toNat w).symm
  rw [htoNat, ← List.map_map, ← List.map_map]
  exact (List.map_injective_iff.mpr fun _ _ => BitVec.eq_of_toNat_eq).eq_iff

theorem completeIfAll_withRxqa (s : State) (q : List Word) :
    completeIfAll { s with rxqa := q } = { completeIfAll s with rxqa := q } := by
  unfold completeIfAll
  dsimp only
  split <;> rfl

theorem completeIfAll_hteBuf (s : State) : (completeIfAll s).hteBuf = s.hteBuf := by
  unfold completeIfAll
  split <;> rfl

theorem completeIfAll_rxqa (s : State) : (completeIfAll s).rxqa = s.rxqa := by
  unfold completeIfAll
  split <;> rfl

theorem acceptWord_congr {w w' : Word} (h : rxByte w = rxByte w') (s : State) : acceptWord w s = acceptWord w' s := by
  simp only [acceptWord, h]

/-- The loop works on its argument and not on the `RXQA` of its state. -/
theorem drainLoop_withRxqa (q q' : List Word) (s : State) : drainLoop q { s with rxqa := q' } = drainLoop q s := by
  induction q generalizing s with
  | nil => rfl
  | cons w q ih =>
    unfold drainLoop
    dsimp only
    split
    · exact ih (acceptWord w s)
    · rfl

/-- Two queues with the same bytes drain to states that differ in the words left, and those have the same bytes. -/
theorem drainLoop_congr {q q' : List Word} (h : q.map rxByte = q'.map rxByte) (s : State) :
    drainLoop q' s = { drainLoop q s with rxqa := (drainLoop q' s).rxqa } ∧
      (drainLoop q s).rxqa.map rxByte = (drainLoop q' s).rxqa.map rxByte := by
  induction q generalizing q' s with
  | nil =>
    cases List.map_eq_nil_iff.mp h.symm
    exact ⟨rfl, rfl⟩
  | cons w q ih =>
    obtain ⟨w', q', rfl, hw, hq⟩ := List.map_eq_cons_iff.mp h.symm
    unfold drainLoop
    split
    · rw [acceptWord_congr hw]
      exact ih hq.symm _
    · exact ⟨rfl, h⟩

theorem drain_withRxqa (q : List Word) (s : State) : drain { s with rxqa := q } = completeIfAll (drainLoop q s) :=
  congrArg completeIfAll (drainLoop_withRxqa q q s)

/-- The same of the drain from two `RXQA`s. -/
theorem drain_congr {q q' : List Word} (h : q.map rxByte = q'.map rxByte) (s : State) :
    drain { s with rxqa := q' } = { drain { s with rxqa := q } with rxqa := (drain { s with rxqa := q' }).rxqa } ∧
      (drain { s with rxqa := q }).rxqa.map rxByte = (drain { s with rxqa := q' }).rxqa.map rxByte := by
  obtain ⟨hloop, hbytes⟩ := drainLoop_congr h s
  rw [drain_withRxqa, drain_withRxqa, completeIfAll_rxqa, completeIfAll_rxqa, ← completeIfAll_withRxqa, ← hloop]
  exact ⟨rfl, hbytes⟩

/-- A word is accepted at once in RECV, by its byte. -/
theorem step_rxa_accepts {s : State} {w : Word} (rest : List Move) (hf : s.faults = []) (hrun : s.engaRun = true)
    (hphase : s.htePhase = .recv) (hq : s.rxqa = []) (hmissing : s.hteIdx < s.hteNIn)
    (hdepth : 1 ≤ s.params.rxqaDepth) :
    step { s with sched := .rxa w :: rest } = .next (completeIfAll (acceptWord w { s with sched := rest })) := by
  have hdrain := drain_single (s := { s with sched := rest, rxqa := [w] }) hmissing rfl
  rw [step_rxa_recv (s := { s with sched := .rxa w :: rest }) hf rfl hrun hphase hq hdepth, hdrain]
  simp only [acceptWord, hq]

/-- Settles O48: the accepted byte, two words with one byte, and two queues with the same bytes. -/
theorem rxLowBitsIgnored : Obligations.RxLowBitsIgnored := by
  refine ⟨fun s w rest hf hphase hq hmissing hrun hdepth hwf => ?_,
    fun s w w' rest hphase hq hmissing hrun hdepth hw => ?_,
    fun s q q' rest hf hphase hlast hq => ?_⟩
  · refine ⟨_, step_rxa_accepts rest hf hrun hphase hq hmissing hdepth, ?_⟩
    rw [completeIfAll_hteBuf, acceptWord_hteBuf, Memory.read_write hwf, if_pos rfl, rxByte_toNat]
  · have hbyte : rxByte w = rxByte w' := BitVec.eq_of_toNat_eq (by rw [rxByte_toNat, rxByte_toNat, hw])
    by_cases hf : s.faults = []
    · rw [step_rxa_accepts rest hf hrun hphase hq hmissing hdepth,
        step_rxa_accepts rest hf hrun hphase hq hmissing hdepth, acceptWord_congr hbyte]
    · exact (step_faulted (s := { s with sched := .rxa w :: rest }) hf).trans
        (step_faulted (s := { s with sched := .rxa w' :: rest }) hf).symm
  · obtain ⟨hdrain, hbytes⟩ := drain_congr ((map_rxByte_eq_iff q q').mp hq)
      { s with sched := rest, htePhase := .recv, hteTcnt := 0 }
    exact ⟨_, _, step_settleEnds hf rfl hphase hlast, step_settleEnds hf rfl hphase hlast, hdrain,
      (map_rxByte_eq_iff _ _).mpr hbytes⟩

end Sys2Proof.Machine
end

section
/-! PROOFS. The shared registers and the two sides (spec 42_shared_state_control.md, 60_exceptions.md section 3): who writes `CUR_BUTTONS` and `IRQ_EN`, and why the HTE's side and bus B's side commute. -/

namespace Sys2Proof.Machine

/-! ### Who writes the shared registers -/

theorem HostEffect.idle {s t : State} {i : Instr} (h : HostEffect s i t) : s.htePhase = .idle := by
  cases h <;> assumption

/-- A reaction of the HTE stays on its side. -/
theorem SameSide.frame {s t : State} (h : SameSide s t) :
    t.stepReg = s.stepReg ∧ SameEngineB s t ∧ SameShared s t ∧ SameOwn s t :=
  ⟨h.stepReg, ⟨h.rxb, h.engbAwait, h.txqb, h.irqPend⟩, ⟨h.curButtons, h.irqEn⟩, ⟨h.params, h.sched, h.freeCtr⟩⟩

/-- A move leaves the shared registers, unless it is a command that has its effect. -/
theorem MoveEffect.shared_or_command {s t : State} {m : Move} (h : MoveEffect s m t) :
    SameShared s t ∨ ∃ w payload i, m = .cmd w payload ∧ decodeCommand w payload = .ok i ∧ HostEffect s i t := by
  cases h with
  | command hdec heffect => exact .inr ⟨_, _, _, rfl, hdec, heffect⟩
  | drainRx w hrun hroom hphase =>
    obtain ⟨-, -, shared, -⟩ := (drain_side { s with rxqa := s.rxqa ++ [w] }).frame
    exact .inl shared
  | settleEnds hphase hlast =>
    obtain ⟨-, -, shared, -⟩ := (enterRecv_side { s with hteTcnt := s.hteTcnt + 1 }).frame
    exact .inl shared
  | _ => exact .inl ⟨rfl, rfl⟩

/-- Settles O19: of the commands, PUBLISH writes `CUR_BUTTONS` and the two gate commands write `IRQ_EN`. -/
theorem onlyProcWritesSharedRegisters : Obligations.OnlyProcWritesSharedRegisters := by
  intro s t h
  obtain ⟨-, heffect | rfl⟩ := step_effect h
  · rcases heffect.shared_or_command with ⟨hbuttons, hirqEn⟩ | ⟨w, payload, i, hm, hdec, hhost⟩
    · exact ⟨fun hne => absurd (hbuttons.trans (popped_curButtons s)) hne,
        fun hne => absurd (hirqEn.trans (popped_irqEn s)) hne⟩
    · cases hhost with
      | publish v hidle hmask =>
        exact ⟨fun _ => ⟨w, payload, hm, hdec, (popped_irqEn s).symm.trans hmask⟩,
          fun hne => absurd (popped_irqEn s) hne⟩
      | irqDisable hidle =>
        exact ⟨fun hne => absurd (popped_curButtons s) hne, fun _ => ⟨w, payload, hm, .inl ⟨hdec, rfl⟩⟩⟩
      | irqEnable hidle =>
        exact ⟨fun hne => absurd (popped_curButtons s) hne, fun _ => ⟨w, payload, hm, .inr ⟨hdec, rfl⟩⟩⟩
      | reject out nIn hidle =>
        exact ⟨fun hne => absurd (popped_curButtons s) hne, fun hne => absurd (popped_irqEn s) hne⟩
      | start out nIn hidle hgood =>
        exact ⟨fun hne => absurd (popped_curButtons s) hne, fun hne => absurd (popped_irqEn s) hne⟩
  · exact ⟨fun hne => absurd (popped_curButtons s) hne, fun hne => absurd (popped_irqEn s) hne⟩

/-- Settles O21: a command has an effect other than its fault in IDLE only. -/
theorem busyFreezesSharedRegisters : Obligations.BusyFreezesSharedRegisters := by
  intro s t hbusy h
  obtain ⟨-, heffect | rfl⟩ := step_effect h
  · rcases heffect.shared_or_command with ⟨hbuttons, hirqEn⟩ | ⟨w, payload, i, -, -, hhost⟩
    · exact ⟨hbuttons.trans (popped_curButtons s), hirqEn.trans (popped_irqEn s)⟩
    · exact absurd ((popped_htePhase s).symm.trans hhost.idle) hbusy
  · exact ⟨popped_curButtons s, popped_irqEn s⟩

/-! ### A critical section -/

/-- What a run inside a critical section keeps: the mask and `STEP`, and `TXQB` only loses words. -/
def KeepsHandlerOut (s t : State) : Prop :=
  t.irqEn = false ∧ t.stepReg = s.stepReg ∧ ∃ taken, s.txqb = taken ++ t.txqb

theorem keepsHandlerOut_of_same {s t : State} (hmask : t.irqEn = false) (hstep : t.stepReg = s.stepReg)
    (hq : t.txqb = s.txqb) : KeepsHandlerOut s t :=
  ⟨hmask, hstep, [], hq.symm⟩

theorem SameSide.keepsHandlerOut {s t : State} (h : SameSide s t) (hmask : s.irqEn = false) : KeepsHandlerOut s t :=
  keepsHandlerOut_of_same (h.irqEn.trans hmask) h.stepReg h.txqb

theorem KeepsHandlerOut.trans {s t u : State} (h : KeepsHandlerOut s t) (k : KeepsHandlerOut t u) :
    KeepsHandlerOut s u := by
  obtain ⟨-, hstep, taken, hq⟩ := h
  obtain ⟨hmask', hstep', taken', hq'⟩ := k
  exact ⟨hmask', hstep'.trans hstep, taken ++ taken', by rw [hq, hq', List.append_assoc]⟩

theorem decodeCommand_irqEnable_word {w : Word} {payload : List Byte} (h : decodeCommand w payload = .ok .irqEnable) :
    Move.cmd w payload = .cmd 0x40000000#32 [] := by
  obtain ⟨hencode, -⟩ := encode_of_decodeCommand h
  cases hencode
  rfl

/-- With the interrupt masked a move other than IRQ_ENABLE is no HANDLER step and leaves the interrupt masked. -/
theorem MoveEffect.keepsHandlerOut {s t : State} {m : Move} (h : MoveEffect s m t) (hmask : s.irqEn = false)
    (hm : m ≠ .cmd 0x40000000#32 []) : m ≠ .irq ∧ KeepsHandlerOut s t := by
  cases h with
  | command hdec heffect =>
    cases heffect with
    | irqEnable hidle => exact absurd (decodeCommand_irqEnable_word hdec) hm
    | irqDisable hidle => exact ⟨nofun, keepsHandlerOut_of_same rfl rfl rfl⟩
    | _ => exact ⟨nofun, keepsHandlerOut_of_same hmask rfl rfl⟩
  | replyFault hen hpend hfull => cases hmask.symm.trans hen
  | reply hen hpend hdec hrow hroom => cases hmask.symm.trans hen
  | drainRx w hrun hroom hphase =>
    exact ⟨nofun, (drain_side { s with rxqa := s.rxqa ++ [w] }).keepsHandlerOut hmask⟩
  | settleEnds hphase hlast =>
    exact ⟨nofun, (enterRecv_side { s with hteTcnt := s.hteTcnt + 1 }).keepsHandlerOut hmask⟩
  | takeB hq => exact ⟨nofun, hmask, rfl, [_], hq⟩
  | _ => exact ⟨nofun, keepsHandlerOut_of_same hmask rfl rfl⟩

theorem ScheduleRun.keepsHandlerOut {ms : List Move} {s t : State} (h : ScheduleRun ms s t) (hmask : s.irqEn = false)
    (hms : Move.cmd 0x40000000#32 [] ∉ ms) : Move.irq ∉ ms ∧ KeepsHandlerOut s t := by
  induction h with
  | nil s => exact ⟨List.not_mem_nil, keepsHandlerOut_of_same hmask rfl rfl⟩
  | cons hf heffect hrest ih =>
    rw [List.mem_cons, not_or] at hms
    obtain ⟨hne, hmove⟩ := heffect.keepsHandlerOut hmask (Ne.symm hms.1)
    obtain ⟨hnot, hrun⟩ := ih hmove.1 hms.2
    exact ⟨List.not_mem_cons_of_ne_of_not_mem (Ne.symm hne) hnot, hmove.trans hrun⟩

/-- Settles O20: move by move over the schedule. -/
theorem criticalSectionExcludesHandler : Obligations.CriticalSectionExcludesHandler :=
  fun _ _ _ hmask hms h => (scheduleRun_of_stepN h).keepsHandlerOut hmask hms

/-! ### What each side writes -/

/-- Settles O49: by the move, each side's frame. -/
theorem sidesShareNothing : Obligations.SidesShareNothing := by
  intro s t m h
  refine ⟨fun hm => ?_, fun hm => ?_⟩
  · cases takeMove_effect h with
    | drainRx w hrun hroom hphase => exact (drain_side { s with rxqa := s.rxqa ++ [w] }).frame
    | settleEnds hphase hlast => exact (enterRecv_side { s with hteTcnt := s.hteTcnt + 1 }).frame
    | timesOut hphase hlast => exact (completeTimeout_side s).frame
    | tickFault hphase =>
      obtain ⟨-, -, -, engB, shared, own, stepReg⟩ := addFault_frame s .internal
      exact ⟨stepReg, engB, shared, own⟩
    | queueRx w hrun hroom hphase => simp [SameEngineB, SameShared, SameOwn]
    | takeA hrun hq => simp [SameEngineB, SameShared, SameOwn]
    | tickIdle hphase => simp [SameEngineB, SameShared, SameOwn]
    | tickCounts hwait => simp [SameEngineB, SameShared, SameOwn]
    | _ => cases hm
  · cases takeMove_effect h with
    | replyFault hen hpend hfull =>
      obtain ⟨hte, rsp, engA, -, shared, own, -⟩ := addFault_frame s .txqbFull
      exact ⟨hte, rsp, engA, shared, own⟩
    | reply hen hpend hdec hrow hroom => exact reply_frame s _ _ _
    | byteB b hpend hawait => simp [SameHte, SameResponse, SameEngineA, SameShared, SameOwn]
    | takeB hq => simp [SameHte, SameResponse, SameEngineA, SameShared, SameOwn]
    | _ => cases hm

/-- `s` with the registers that bus B's side writes as in `u`. -/
def State.withResponder (s u : State) : State :=
  { s with
    stepReg := u.stepReg, irqPend := u.irqPend, rxb := u.rxb, engbAwait := u.engbAwait, txqb := u.txqb,
    faults := u.faults }

/-- `s` with the registers that the HTE's side writes as in `u`. -/
def State.withHte (s u : State) : State :=
  { s with
    htePhase := u.htePhase, hteIdx := u.hteIdx, hteTcnt := u.hteTcnt, hteBuf := u.hteBuf, rspStatus := u.rspStatus,
    rspLen := u.rspLen, rspData := u.rspData, engaRun := u.engaRun, txqa := u.txqa, rxqa := u.rxqa }

/-! ### Both orders -/

theorem drainLoop_withResponder (q : List Word) (s u : State) :
    drainLoop q (s.withResponder u) = (drainLoop q s).withResponder u := by
  induction q generalizing s with
  | nil => rfl
  | cons w q ih =>
    unfold drainLoop
    split
    · exact (ih (acceptWord w s)).trans (by rw [if_pos ‹_›])
    · rw [if_neg ‹_›]
      rfl

theorem completeIfAll_withResponder (s u : State) :
    completeIfAll (s.withResponder u) = (completeIfAll s).withResponder u := by
  unfold completeIfAll
  split
  · rw [if_pos ‹_›]
    rfl
  · rw [if_neg ‹_›]

theorem drain_withResponder (s u : State) : drain (s.withResponder u) = (drain s).withResponder u :=
  (congrArg completeIfAll (drainLoop_withResponder s.rxqa s u)).trans (completeIfAll_withResponder _ u)

theorem SameSide.eq_withHte {s t : State} (h : SameSide s t) : t = s.withHte t := by
  unfold State.withHte
  rw [← h.hteNOut, ← h.hteNIn, ← h.hteSettle, ← h.hteChan, ← h.stepReg, ← h.curButtons, ← h.irqEn, ← h.irqPend,
    ← h.engaCfg, ← h.rxb, ← h.engbAwait, ← h.txqb, ← h.faults, ← h.params, ← h.sched, ← h.freeCtr]

/-- A move of the HTE's side that does not fault writes its own registers, whatever bus B's are. -/
theorem MoveEffect.of_hte {s t : State} {m : Move} (h : MoveEffect s m t) (hm : isHteMove m = true) :
    (m = .tick ∧ s.htePhase = .three ∧ t = s.addFault .internal) ∨
      (t = s.withHte t ∧ ∀ u, MoveEffect (s.withResponder u) m (t.withResponder u)) := by
  cases h with
  | queueRx w hrun hroom hphase => exact .inr ⟨rfl, fun u => .queueRx w hrun hroom hphase⟩
  | drainRx w hrun hroom hphase =>
    refine .inr ⟨(drain_side { s with rxqa := s.rxqa ++ [w] }).eq_withHte, fun u => ?_⟩
    rw [← drain_withResponder]
    exact .drainRx w hrun hroom hphase
  | takeA hrun hq => exact .inr ⟨rfl, fun u => .takeA hrun hq⟩
  | tickIdle hphase => exact .inr ⟨rfl, fun u => .tickIdle hphase⟩
  | tickCounts hwait => exact .inr ⟨rfl, fun u => .tickCounts hwait⟩
  | settleEnds hphase hlast =>
    refine .inr ⟨(enterRecv_side { s with hteTcnt := s.hteTcnt + 1 }).eq_withHte, fun u => ?_⟩
    have hdrain : enterRecv ({ s with hteTcnt := s.hteTcnt + 1 }.withResponder u) =
        (enterRecv { s with hteTcnt := s.hteTcnt + 1 }).withResponder u :=
      drain_withResponder { s with htePhase := .recv, hteTcnt := 0 } u
    rw [← hdrain]
    exact .settleEnds hphase hlast
  | timesOut hphase hlast => exact .inr ⟨rfl, fun u => .timesOut hphase hlast⟩
  | tickFault hphase => exact .inl ⟨rfl, hphase, rfl⟩
  | _ => cases hm

/-- A move of bus B's side writes its own registers, whatever the HTE's are. -/
theorem MoveEffect.of_responder {s t : State} {m : Move} (h : MoveEffect s m t) (hm : isResponderMove m = true) :
    t = s.withResponder t ∧ ∀ u, MoveEffect (s.withHte u) m (t.withHte u) := by
  cases h with
  | replyFault hen hpend hfull => exact ⟨rfl, fun u => .replyFault hen hpend hfull⟩
  | @reply i hen hpend hdec hrow hroom =>
    refine ⟨rfl, fun u => ?_⟩
    rw [rowOf_congr i (show s.curButtons = (s.withHte u).curButtons from rfl)]
    exact .reply hen hpend hdec hrow hroom
  | byteB b hpend hawait => exact ⟨rfl, fun u => .byteB b hpend hawait⟩
  | takeB hq => exact ⟨rfl, fun u => .takeB hq⟩
  | _ => cases hm

/-- The tick that raises `F_INTERNAL` does not keep bus B's side from its move. -/
theorem MoveEffect.after_internal {s t : State} {m : Move} (h : MoveEffect s m t) (hm : isResponderMove m = true)
    (hf : s.faults = []) : MoveEffect (s.addFault .internal) m (t.addFault .internal) := by
  cases h with
  | replyFault hen hpend hfull =>
    have hcodes : (s.addFault .txqbFull).addFault .internal = (s.addFault .internal).addFault .txqbFull := by
      simp [State.addFault, hf, insertFault, faultNumber]
    rw [hcodes]
    exact .replyFault hen hpend hfull
  | @reply i hen hpend hdec hrow hroom =>
    rw [rowOf_congr i (show s.curButtons = (s.addFault .internal).curButtons from rfl)]
    exact .reply hen hpend hdec hrow hroom
  | byteB b hpend hawait => exact .byteB b hpend hawait
  | takeB hq => exact .takeB hq
  | _ => cases hm

theorem isResponderMove_ne_cmd {m : Move} (h : isResponderMove m = true) (w : Word) (payload : List Byte) :
    m ≠ .cmd w payload := by
  rintro rfl
  cases h

/-- Settles O50: each side's move works on its own registers, so the second one has the effect it had before. -/
theorem hteAndResponderCommute : Obligations.HteAndResponderCommute := by
  intro s t₁ t₂ m m' hf hm hm' h₁ h₂
  have heffect := takeMove_effect h₂
  obtain ⟨hown₂, hother₂⟩ := heffect.of_responder hm'
  have hne := isHteMove_ne_cmd hm
  have hne' := isResponderMove_ne_cmd hm'
  rcases (takeMove_effect h₁).of_hte hm with ⟨rfl, hthree, rfl⟩ | ⟨hown₁, hother₁⟩
  · refine ⟨t₂.addFault .internal, takeMove_of_effect hne' (heffect.after_internal hm' hf), ?_⟩
    refine takeMove_of_effect hne (.tickFault ?_)
    rw [hown₂]
    exact hthree
  · refine ⟨t₂.withHte t₁, takeMove_of_effect hne' ?_, takeMove_of_effect hne ?_⟩
    · have hafter := hother₂ t₁
      rwa [← hown₁] at hafter
    · have hafter := hother₁ t₂
      have hsame : t₁.withResponder t₂ = t₂.withHte t₁ := by
        rw [hown₁, hown₂]
        rfl
      rwa [← hown₂, hsame] at hafter

end Sys2Proof.Machine
end

section
/-! PROOFS. How long a transaction lasts, and fair runs (spec 40_host_transaction_engine.md R119, 60_exceptions.md R198, R203): the ticks left never rise, a tick takes one, and none are left in IDLE. -/

namespace Sys2Proof.Machine

/-! ### The ticks a transaction has left -/

theorem ticksLeft_settle {s : State} (h : s.htePhase = .settle) :
    ticksLeft s = (s.hteSettle - s.hteTcnt) + s.hteNIn * 64 := by
  unfold ticksLeft
  rw [h]
  rfl

theorem ticksLeft_recv {s : State} (h : s.htePhase = .recv) :
    ticksLeft s = (64 - s.hteTcnt) + (s.hteNIn - s.hteIdx - 1) * 64 := by
  unfold ticksLeft
  rw [h]
  rfl

/-- A running transaction has a tick left. -/
theorem one_le_ticksLeft {s : State} (hs : CoreInv s) (hbusy : s.htePhase ≠ .idle) : 1 ≤ ticksLeft s := by
  obtain ⟨-, ⟨-, -, hsettle, hrecv, hthree⟩, -⟩ := hs
  rw [timeoutTicks_eq] at hrecv
  cases hphase : s.htePhase with
  | idle => exact absurd hphase hbusy
  | settle =>
    have hwait := hsettle hphase
    rw [ticksLeft_settle hphase]
    omega
  | recv =>
    have hwait := hrecv hphase
    rw [ticksLeft_recv hphase]
    omega
  | three => exact absurd hphase hthree

/-- The drain adds no tick, and leaves at most one timeout for each missing byte. -/
theorem ticksLeft_drain {s : State} (hphase : s.htePhase = .recv) (hle : s.hteIdx ≤ s.hteNIn) :
    ticksLeft (drain s) ≤ ticksLeft s ∧ ticksLeft (drain s) ≤ (s.hteNIn - s.hteIdx) * 64 := by
  have k := drainLoop_spec s.rxqa s
  have hacc : accepted s.rxqa s ≤ s.hteNIn - s.hteIdx := Nat.min_le_right _ _
  rcases drain_cases s with ⟨-, heq⟩ | ⟨hmissing, heq⟩ <;> rw [heq]
  · exact ⟨Nat.zero_le _, Nat.zero_le _⟩
  · have hloop := ticksLeft_recv (k.phase.trans hphase)
    rw [k.count, k.idx, k.side.hteNIn] at hloop
    rw [hloop, ticksLeft_recv hphase]
    split <;> omega

/-- A move made while a transaction runs takes its ticks off the ticks left. -/
theorem MoveEffect.ticksLeft_le {s t : State} {m : Move} (h : MoveEffect s m t) (hs : CoreInv s)
    (hbusy : s.htePhase ≠ .idle) : ticksLeft t + [m].count .tick ≤ ticksLeft s := by
  obtain ⟨-, ⟨-, -, hsettle, hrecv, hthree⟩, ⟨hle, hzero, -⟩, -⟩ := hs
  cases h with
  | command hdec heffect => exact absurd heffect.idle hbusy
  | drainRx w hrun hroom hphase => exact (ticksLeft_drain (s := { s with rxqa := s.rxqa ++ [w] }) hphase hle).1
  | tickIdle hphase => exact absurd hphase hbusy
  | tickCounts hwait =>
    rw [List.count_singleton_self]
    rcases hwait with ⟨hphase, hmore⟩ | ⟨hphase, hmore⟩
    · rw [ticksLeft_settle hphase, ticksLeft_settle (s := { s with hteTcnt := s.hteTcnt + 1 }) hphase]
      dsimp only
      omega
    · rw [ticksLeft_recv hphase, ticksLeft_recv (s := { s with hteTcnt := s.hteTcnt + 1 }) hphase]
      dsimp only
      omega
  | settleEnds hphase hlast =>
    have hwait := hsettle hphase
    have hdrain : ticksLeft (enterRecv { s with hteTcnt := s.hteTcnt + 1 }) ≤ (s.hteNIn - s.hteIdx) * 64 :=
      (ticksLeft_drain (s := { s with htePhase := .recv, hteTcnt := 0 }) rfl hle).2
    rw [List.count_singleton_self, ticksLeft_settle hphase]
    omega
  | timesOut hphase hlast =>
    have hwait := hrecv hphase
    rw [timeoutTicks_eq] at hwait
    rw [List.count_singleton_self, ticksLeft_recv hphase]
    show 0 + 1 ≤ _
    omega
  | tickFault hphase => exact absurd hphase hthree
  | _ => exact Nat.le_refl _

/-! ### Over a schedule -/

theorem ScheduleRun.coreInv {ms : List Move} {s t : State} (h : ScheduleRun ms s t) (hs : CoreInv s) : CoreInv t := by
  induction h with
  | nil s => exact hs
  | cons hf heffect hrest ih => exact ih (heffect.coreInv hs hf)

theorem ProcBlocked.cons {m : Move} {ms : List Move} (h : ProcBlocked (m :: ms)) :
    (∀ w payload, m ≠ .cmd w payload) ∧ ProcBlocked ms :=
  List.forall_mem_cons.mp h

/-- Without a command the HTE stays idle. -/
theorem ScheduleRun.stays_idle {ms : List Move} {s t : State} (h : ScheduleRun ms s t) (hms : ProcBlocked ms)
    (hidle : s.htePhase = .idle) : t.htePhase = .idle := by
  induction h with
  | nil s => exact hidle
  | cons hf heffect hrest ih =>
    obtain ⟨hm, hms⟩ := hms.cons
    refine ih hms (Decidable.byContradiction fun hbusy => ?_)
    obtain ⟨w, payload, nIn, hcmd, -⟩ := heffect.leaves_idle hidle hbusy
    exact hm w payload hcmd

/-- Without a command the HTE becomes idle, or every tick was taken off the ticks left. -/
theorem ScheduleRun.idle_or_ticksLeft_le {ms : List Move} {s t : State} (h : ScheduleRun ms s t) (hs : CoreInv s)
    (hms : ProcBlocked ms) : t.htePhase = .idle ∨ ticksLeft t + ms.count .tick ≤ ticksLeft s := by
  induction h with
  | nil s => exact .inr (Nat.le_refl _)
  | @cons m ms s u t hf heffect hrest ih =>
    by_cases hidle : s.htePhase = .idle
    · exact .inl ((ScheduleRun.cons hf heffect hrest).stays_idle hms hidle)
    · have hmove : ticksLeft u + [m].count .tick ≤ ticksLeft s := heffect.ticksLeft_le hs hidle
      refine (ih (heffect.coreInv hs hf) hms.cons.2).imp_right fun hrun => ?_
      rw [← List.singleton_append, List.count_append]
      omega

theorem ticksLeft_started (out : List Byte) (nIn : Nat) (s : State) :
    ticksLeft (started out nIn s) = (started out nIn s).hteSettle + nIn * 64 :=
  ticksLeft_settle rfl

/-- Settles O52: the ticks left after TRANSACT, and no tick is left once they have come. -/
theorem transactionDurationBounded : Obligations.TransactionDurationBounded := by
  refine ⟨fun s t out nIn _ h hidle hsettle => ?_, fun s t ms hs hbusy hms h hticks => ?_⟩
  · rcases exec_hostOp_effect rfl h with ⟨c, rfl⟩ | heffect
    · cases hidle.symm.trans hsettle
    · cases heffect with
      | reject _ _ _ => cases hidle.symm.trans hsettle
      | start _ _ _ _ => exact ⟨ticksLeft_started out nIn.toNat s, rfl⟩
  · have hrun := scheduleRun_of_stepN h
    rcases hrun.idle_or_ticksLeft_le hs hms with hidle | hleft
    · exact hidle
    · refine Decidable.byContradiction fun hbusy' => ?_
      have hone := one_le_ticksLeft (hrun.coreInv hs) hbusy'
      omega

/-! ### The settle wait -/

/-- Before the end of the settle wait a move only counts its ticks. -/
theorem MoveEffect.settle_counts {s t : State} {m : Move} (h : MoveEffect s m t) (hphase : s.htePhase = .settle)
    (hwait : s.hteTcnt + [m].count .tick < s.hteSettle) :
    t.htePhase = .settle ∧ t.hteSettle = s.hteSettle ∧ t.hteTcnt = s.hteTcnt + [m].count .tick := by
  cases h with
  | command hdec heffect => cases hphase.symm.trans heffect.idle
  | drainRx w hrun hroom hrecv => cases hphase.symm.trans hrecv
  | tickIdle hidle => cases hphase.symm.trans hidle
  | tickCounts hwait' => exact ⟨hphase, rfl, rfl⟩
  | settleEnds hphase' hlast =>
    rw [List.count_singleton_self] at hwait
    omega
  | timesOut hrecv hlast => cases hphase.symm.trans hrecv
  | tickFault hthree => cases hphase.symm.trans hthree
  | _ => exact ⟨hphase, rfl, rfl⟩

theorem ScheduleRun.settle_counts {ms : List Move} {s t : State} (h : ScheduleRun ms s t)
    (hphase : s.htePhase = .settle) (hwait : s.hteTcnt + ms.count .tick < s.hteSettle) :
    t.htePhase = .settle ∧ t.hteTcnt = s.hteTcnt + ms.count .tick := by
  induction h with
  | nil s => exact ⟨hphase, rfl⟩
  | @cons m ms s u t hf heffect hrest ih =>
    rw [← List.singleton_append, List.count_append] at hwait ⊢
    obtain ⟨hphase', hsettle, htcnt⟩ := heffect.settle_counts hphase (by dsimp only; omega)
    dsimp only at hsettle htcnt
    obtain ⟨hphase'', htcnt'⟩ := ih hphase' (by omega)
    exact ⟨hphase'', by omega⟩

/-- Settles O53: a command in SETTLE only faults, and every other move counts its ticks. -/
theorem settleWaitIsLowerBound : Obligations.SettleWaitIsLowerBound :=
  fun _ _ _ hphase _ h hwait => (scheduleRun_of_stepN h).settle_counts hphase hwait

/-! ### Infinite runs -/

theorem IsRun.effect {moves : Nat → Move} {run : Nat → State} (h : IsRun moves run) (n : Nat) :
    (run n).faults = [] ∧ MoveEffect { run n with sched := [] } (moves n) (run (n + 1)) := by
  have hf : (run n).faults = [] := (step_next (h n)).1
  exact ⟨hf, takeMove_effect ((step_cons (s := { run n with sched := [moves n] }) hf rfl).symm.trans (h n))⟩

theorem IsRun.coreInv {moves : Nat → Move} {run : Nat → State} (h : IsRun moves run) (hs : CoreInv (run 0)) (n : Nat) :
    CoreInv (run n) := by
  induction n with
  | zero => exact hs
  | succ n ih =>
    obtain ⟨hf, heffect⟩ := h.effect n
    exact heffect.coreInv ih hf

/-- Settles O54: else every tick, and there are more than any number of them, would take one of the ticks left. -/
theorem fairTicksEndTransactions : Obligations.FairTicksEndTransactions := by
  intro moves run h hticks hs
  by_contra hnever
  have hbusy : ∀ n, (run n).htePhase ≠ .idle := fun n hidle => hnever ⟨n, hidle⟩
  have hmove : ∀ n, ticksLeft (run (n + 1)) + [moves n].count .tick ≤ ticksLeft (run n) :=
    fun n => (h.effect n).2.ticksLeft_le (h.coreInv hs n) (hbusy n)
  have hanti : Antitone fun n => ticksLeft (run n) :=
    antitone_nat_of_succ_le fun n => Nat.le_of_add_right_le (hmove n)
  have hdrop : ∀ k, ∃ n, ticksLeft (run n) + k ≤ ticksLeft (run 0) := by
    intro k
    induction k with
    | zero => exact ⟨0, Nat.le_refl _⟩
    | succ k ih =>
      obtain ⟨n, hn⟩ := ih
      obtain ⟨m, hnm, htick⟩ := hticks n
      have hle : ticksLeft (run m) ≤ ticksLeft (run n) := hanti hnm
      have hlt := hmove m
      rw [htick, List.count_singleton_self] at hlt
      exact ⟨m + 1, by omega⟩
  obtain ⟨n, hn⟩ := hdrop (ticksLeft (run 0) + 1)
  omega

/-- Settles O55: fairness gives a HANDLER step, which clears the pending bit, for a fault would have ended the run. -/
theorem fairHandlerServesByte : Obligations.FairHandlerServesByte := by
  intro moves run h hfair _ hen
  by_contra hnever
  have hpend : ∀ n, (run n).irqPend = true := fun n => Bool.of_not_eq_false fun hclear => hnever ⟨n, hclear⟩
  obtain ⟨n, -, hirq⟩ := hfair 0 fun m _ => by simp [handlerEnabled, hen m, hpend m]
  have hcount := (h.effect n).2.irqPend_count (h.effect (n + 1)).1
  rw [hirq] at hcount
  simp [hpend, isByteB] at hcount

end Sys2Proof.Machine
end
